-- ==== Sys2Proof/Word.lean ====
section
/-! DEFINITION. The plain types every layer uses: bytes, row fields, the noise register and the
numeric carrier of the reference semantics (00_scope.md R8, R12). -/

namespace Sys2Proof

/-- One byte of instrument or pattern memory, bit 0 least significant (00_scope.md R12). -/
abbrev Byte := BitVec 8

/-- The values of every quantity the source types as "float" (00_scope.md R8): a carrier's values are
rational numbers, and the configuration's `Numerics` says how its operations round (DESIGN CHOICE, log 1). -/
abbrev F := Rat

/-- The 15-bit noise shift register (10_state.md R23). -/
abbrev Lfsr := BitVec 15

/-- A channel number 0..3 (10_state.md R40). -/
abbrev ChanId := Fin 4

end Sys2Proof
end

