-- ==== Sys2Proof/Config.lean ====
section
/-! DEFINITION. What an instance fixes: the constants of 00_scope.md R6, the parameters of R7 as data,
and the free values FREQ, SIN, TWO_PI and WAVE_PHASER, which have no body. -/

namespace Sys2Proof

/-- The eight generators of the waveform table (30_encoding.md R90). -/
inductive Waveform where
  | tri | tilt | saw | square | pulse | organ | phaser | noise
deriving DecidableEq, Repr

/-- The eight generators in the order of the source's list. -/
def Waveform.all : List Waveform := [.tri, .tilt, .saw, .square, .pulse, .organ, .phaser, .noise]

/-- WAVE_MAP: the generator of each waveform code 0..7 (00_scope.md R7, 30_encoding.md R90). -/
structure WaveMap where
  w0 : Waveform
  w1 : Waveform
  w2 : Waveform
  w3 : Waveform
  w4 : Waveform
  w5 : Waveform
  w6 : Waveform
  w7 : Waveform
deriving DecidableEq, Repr

/-- The generators in code order. -/
def WaveMap.toList (m : WaveMap) : List Waveform := [m.w0, m.w1, m.w2, m.w3, m.w4, m.w5, m.w6, m.w7]

/-- The default WAVE_MAP, the source's list order (30_encoding.md R90). -/
def WaveMap.default : WaveMap := ⟨.tri, .tilt, .saw, .square, .pulse, .organ, .phaser, .noise⟩

/-- WAVE_MAP is a bijection (00_scope.md R7): eight codes, and each of the eight names has one. -/
abbrev WaveMap.Bijective (m : WaveMap) : Prop := ∀ w ∈ Waveform.all, w ∈ m.toList

/-- The carrier of the float quantities (00_scope.md R8): the rationals with exact operations, the
reference carrier, or a carrier whose operations round, named by a number (log 1). -/
inductive Carrier where
  | exact
  | rounding (k : Nat)
deriving DecidableEq, Repr

/-- The record `Numerics` of 00_scope.md R8 as plain data: the carrier, the tolerance an instance states
for FREQ in Hz (R9), and the numbers that pick FREQ, SIN and TWO_PI (R9, R10) among the free values
below (log 1 to 4). -/
structure Numerics where
  carrier       : Carrier
  freqTolerance : F
  freqIndex     : Nat
  sinIndex      : Nat
  twoPiIndex    : Nat
deriving DecidableEq, Repr

/-- The reference instance of 00_scope.md R8, with the source's tolerance of 1e-3 (R9; log 2). -/
def Numerics.default : Numerics :=
  { carrier := .exact, freqTolerance := 1 / 1000, freqIndex := 0, sinIndex := 0, twoPiIndex := 0 }

/-- The parameters of 00_scope.md R7. A parameter that is a function is held as the number that picks it
among the free values below, since a configuration is plain data. An instance's configuration is fixed: no
instruction writes it (70_reset_and_hazards.md R286). -/
structure Config where
  nativeRate     : Nat
  samplesPerTick : Nat
  pullCap        : Nat
  pcmScale       : Nat
  waveMap        : WaveMap
  /-- which function of the phase WAVE_PHASER is (40_oscillator_bank.md R121; log 5) -/
  phaserIndex    : Nat
  numerics       : Numerics
deriving DecidableEq, Repr

/-- The defaults of 00_scope.md R7. -/
def Config.default : Config :=
  { nativeRate := 22050, samplesPerTick := 183, pullCap := 2048, pcmScale := 32767,
    waveMap := WaveMap.default, phaserIndex := 0, numerics := Numerics.default }

/-- The domains of 00_scope.md R7. A stated tolerance is positive, since the real frequency is irrational
between octaves, and NATIVE_RATE exceeds every reachable frequency (R9(c); DEDUCED, log 7). -/
abbrev Config.WF (c : Config) : Prop :=
  0 < c.numerics.freqTolerance ∧
  (25253 / 10 : F) + c.numerics.freqTolerance ≤ (c.nativeRate : F) ∧
  0 < c.samplesPerTick ∧ 0 < c.pullCap ∧ 0 < c.pcmScale ∧ c.waveMap.Bijective

/-- SEED_TRIGGER, the LFSR seed a trigger loads (00_scope.md R6). -/
def Config.seedTrigger : Lfsr := 0x5205#15

/-- SEED_OTHER, the LFSR seed of reset (00_scope.md R6, 10_state.md R23). -/
def Config.seedOther : Lfsr := 0x7FFF#15

/-- Size of instrument memory in bytes, 64 slots of 68 (20_memory.md R61). -/
def Config.instrBytes : Nat := 4352

/-- Size of pattern memory in bytes, 64 patterns of 4 (20_memory.md R62). -/
def Config.patBytes : Nat := 256

/-- Free value: what the rounding carrier `k` makes of an exact result, before it is held to the bounds of
log 1. -/
opaque Config.freeRound (k : Nat) : F → F

/-- Free value: the function FREQ of number `i`, before it is held to the bounds of 00_scope.md R9
(log 2). -/
opaque Config.freeFreq (i : Nat) : F → F

/-- Free value: the function SIN of number `i`, before it is held to the bounds of 00_scope.md R10
(log 3). -/
opaque Config.freeSin (i : Nat) : F → F

/-- Free value: the period TWO_PI of number `i`, before it is held positive, 00_scope.md R10 (log 4). -/
opaque Config.freeTwoPi (i : Nat) : F

/-- Free value: the progress of a note whose speed is 0, which no well-formed state has and to which the
spec gives no meaning (log 23). -/
opaque Config.freeProgress : Nat → F

/-- Free value: the function WAVE_PHASER of number `i`, an uninterpreted pure function of the phase,
40_oscillator_bank.md R121 (log 5). -/
opaque Config.freePhaser (i : Nat) : F → F

end Sys2Proof
end

