-- ==== Sys2Proof/Syntax.lean ====
section
/-! DEFINITION. Syntax: the records an operation can carry, the instructions (one constructor per row of
spec/opcode_table.json), and what each fetching unit of the block fetches. -/

namespace Sys2Proof

/-- The eight effects of a note row (30_encoding.md R89); codes 6 and 7 are explicit no-op arms (R95). -/
inductive Effect where
  | none | slide | vibrato | drop | fadeIn | fadeOut | rsv6 | rsv7
deriving DecidableEq, Repr

/-- A ChannelState, the fifteen fields of 10_state.md R22 to R36 (their types, log 20). -/
structure ChannelState where
  sfxId           : Int
  lfsr            : Lfsr
  phi             : F
  noiseSample     : F
  currentVol      : F
  currentPitchVal : F
  slideStartPitch : F
  vibPhase        : F
  row             : Nat
  lastNoteIdx     : Int
  tickCounter     : Nat
  speed           : Nat
  loopStart       : Nat
  loopEnd         : Nat
  loopActive      : Bool
deriving DecidableEq, Repr

/-- A Channel: a ChannelState and the three added fields of 10_state.md R37 to R39. `child` is inert
(41_channel_state_machine.md R147; log 21). -/
structure Channel where
  cs      : ChannelState
  child   : ChannelState
  isMusic : Bool
  effect  : Effect
deriving DecidableEq, Repr

/-- The four channels (10_state.md R40). -/
structure Bank where
  c0 : Channel
  c1 : Channel
  c2 : Channel
  c3 : Channel
deriving DecidableEq, Repr

/-- The snapshot record: every field of S but `pull_acc` (46_snapshot.md R240). -/
structure Snapshot where
  ch             : Bank
  musicPattern   : Nat
  musicTickTimer : Nat
  musicSpeed     : Nat
  musicLoopStart : Nat
  musicMask      : Nat
  musicPlaying   : Bool
  tickAcc        : Nat
deriving DecidableEq, Repr

/-- The instructions: one constructor per row of spec/opcode_table.json. Operands of the host
operations are mathematical integers (30_encoding.md R91); their domains (R92) are checked by
`Instr.WellFormed`. -/
inductive Instr where
  | effNone | effSlide | effVibrato | effDrop | effFadeIn | effFadeOut | effRsv6 | effRsv7
  | waveTri | waveTilt | waveSaw | waveSquare | wavePulse | waveOrgan | wavePhaser | waveNoise
  | patPlay (n : BitVec 6)
  | patSilent | patLoopStart | patLoopBack | patStop | patNext
  | note (key : BitVec 6) (eff : BitVec 3) (vol : BitVec 3) (wave : BitVec 3)
  | hdr (speed loopStart loopEnd : Byte)
  | reset
  | trigger (n : Int) (chan : Option Int) (r0 : Option Int)
  | musicStart (p mask : Int)
  | musicStop
  | sample
  | generate (count : Int)
  | update
  | getState
  | setState (x : Snapshot)
deriving DecidableEq, Repr

/-- A host operation as the VM issues it: the operation number of 30_encoding.md R91 and the raw
operands, an absent one as `none` (DESIGN CHOICE, log 11). -/
structure HostCall where
  number   : Nat
  args     : List (Option Int)
  snapshot : Option Snapshot
deriving DecidableEq, Repr

/-- What a unit of the block fetches. A NOTE16 word is read by three units and a PAT8 byte by up to two,
so the fetch names the unit (30_encoding.md R84, R87; log 12). -/
inductive Fetch where
  /-- both bytes of the row under a channel's cursor, at its fire (42_tick_scheduler.md R171) -/
  | row (b0 b1 : Byte)
  /-- the effect bits of a row, read by the effect modulator through the latched code (R83, R89) -/
  | effectBits (b0 b1 : Byte)
  /-- byte 1 of the rendered row, read by the mixer for its waveform bits (R217) -/
  | waveBits (b1 : Byte)
  /-- one pattern entry, bits 6:0, at any position (R87) -/
  | entry (b : Byte)
  /-- bit 7 of entry 0 (R87) -/
  | entryMark (b0 : Byte)
  /-- bit 7 of entries 1 and 2 (R87) -/
  | entryAdvance (b1 b2 : Byte)
  /-- bytes 65, 66, 67 of a slot (R85) -/
  | header (b65 b66 b67 : Byte)
  /-- a host operation (R91) -/
  | call (h : HostCall)
deriving DecidableEq, Repr

/-- Why a fetch holds no instruction. -/
inductive DecodeError where
  /-- entry 0 without bit 7 is no marker: nothing to execute (42_tick_scheduler.md R159) -/
  | noMarker
  /-- no host operation has this number (30_encoding.md R91) -/
  | unknownOperation (number : Nat)
  /-- the operation does not take operands of this shape (30_encoding.md R91) -/
  | operandShape (number : Nat)
  /-- an operand lies outside its range (30_encoding.md R92, `refuse`) -/
  | operandDomain (mnemonic : String)
deriving DecidableEq, Repr

end Sys2Proof
end

