-- ==== Sys2Proof/Machine/Channels.lean ====
section
/-! DEFINITION. Reading and writing one of the four channels (10_state.md R40). -/

namespace Sys2Proof.Machine

/-- Read channel `c`. -/
def bankGet (b : Bank) (c : ChanId) : Channel :=
  if c = 0 then b.c0 else if c = 1 then b.c1 else if c = 2 then b.c2 else b.c3

/-- Write channel `c`. -/
def bankSet (b : Bank) (c : ChanId) (ch : Channel) : Bank :=
  if c = 0 then { b with c0 := ch } else if c = 1 then { b with c1 := ch }
  else if c = 2 then { b with c2 := ch } else { b with c3 := ch }

end Sys2Proof.Machine
end

