-- ==== Sys2Proof/Machine/Numerics.lean ====
section
/-! DEFINITION. Arithmetic of 00_scope.md R8 to R13: the operations of a carrier, truncation, quotient,
clamp, and the functions FREQ and SIN and the constant TWO_PI held to the bounds the spec requires. -/

namespace Sys2Proof.Machine

/-- `trunc(x)`: x with its fraction dropped, toward zero (00_scope.md R13). -/
def trunc (x : F) : Int := x.num.tdiv (x.den : Int)

/-- `a quot b = trunc(a / b)` for integers (00_scope.md R13). -/
def quot (a b : Int) : Int := a.tdiv b

/-- `clamp(x, lo, hi) = max(lo, min(hi, x))` (00_scope.md R13). -/
def clamp (x lo hi : F) : F :=
  let y := if hi ≤ x then hi else x
  if y ≤ lo then lo else y

/-- The absolute value on F (00_scope.md R8). -/
def absF (x : F) : F := if x < 0 then -x else x

/-! ### The operations of a carrier (00_scope.md R8; log 1) -/

/-- What the rounding carrier `k` makes of an exact result `x ≥ 0`: a free value between the multiples of
1/8 next to it. -/
def roundMagnitude (k : Nat) (x : F) : F :=
  clamp (Config.freeRound k x) (((8 * x).floor : F) / 8) (((8 * x).ceil : F) / 8)

/-- The value of the carrier that an exact result becomes: itself in the reference carrier, else its
rounding, symmetric about 0 (45_sample_mixer_output.md R230(f)). -/
def rnd (n : Numerics) (x : F) : F :=
  match n.carrier with
  | .exact => x
  | .rounding k => if x < 0 then -roundMagnitude k (-x) else roundMagnitude k x

/-- The carrier's value `v` of a result that the spec keeps below `hi`; where a rounding would reach `hi`,
the exact result `x` (00_scope.md R10, 10_state.md R24, R29, 44_effect_modulator.md R200). -/
def below (hi v x : F) : F := if v < hi then v else x

/-- `+` of the carrier. -/
def fadd (n : Numerics) (x y : F) : F := rnd n (x + y)

/-- `−` of the carrier. -/
def fsub (n : Numerics) (x y : F) : F := rnd n (x - y)

/-- `×` of the carrier. -/
def fmul (n : Numerics) (x y : F) : F := rnd n (x * y)

/-- `÷` of the carrier. -/
def fdiv (n : Numerics) (x y : F) : F := rnd n (x / y)

/-- `frac(x) = x − floor(x)`, below 1 in every carrier (40_oscillator_bank.md R113, R120). -/
def frac (n : Numerics) (x : F) : F := below 1 (fsub n x (x.floor : F)) (x - (x.floor : F))

/-! ### FREQ, SIN, TWO_PI -/

/-- `65.406 × 2^k`, the exact frequency of the reference instance at pitch `12k` (00_scope.md R9). -/
def octaveFreq (k : Int) : F :=
  (32703 / 500) * ((2 ^ k.toNat : Nat) : F) / ((2 ^ (-k).toNat : Nat) : F)

/-- `x ≤ 65.406 × 2^(p/12)`, with both sides raised to the power 12 times p's denominator. -/
def atMostPitch (p x : F) : Bool :=
  decide (x ≤ 0) ||
    decide (x ^ (12 * p.den) * 2 ^ (-p.num).toNat ≤ (32703 / 500) ^ (12 * p.den) * 2 ^ p.num.toNat)

/-- `65.406 × 2^(p/12) ≤ x`, with both sides raised to the power 12 times p's denominator. -/
def atLeastPitch (p x : F) : Bool :=
  decide (0 ≤ x) &&
    decide ((32703 / 500) ^ (12 * p.den) * 2 ^ p.num.toNat ≤ x ^ (12 * p.den) * 2 ^ (-p.num).toNat)

/-- The largest `acc + j` with `j < 2^k` that `ok` accepts, for an `ok` that accepts an initial segment. -/
def gridSearch (ok : Nat → Bool) : Nat → Nat → Nat
  | 0, acc => acc
  | k + 1, acc => gridSearch ok k (if ok (acc + 2 ^ k) then acc + 2 ^ k else acc)

/-- A denominator whose unit fraction is within the tolerance `tol`. -/
def gridDen (tol : F) : Nat := max 1 (1 / tol).ceil.toNat

/-- The multiple of `1 / gridDen tol` next above `65.406 × 2^(p/12)`: a positive number within `tol` of it. -/
def freqNear (tol p : F) : F :=
  ((gridSearch (fun m => atMostPitch p ((m : F) / (gridDen tol : F)))
    (8 + (gridDen tol).log2 + (p / 12).ceil.toNat) 0 + 1 : Nat) : F) / (gridDen tol : F)

/-- A frequency an instance of tolerance `tol` may give pitch `p`: positive, and within `tol` of the real
`65.406 × 2^(p/12)` (00_scope.md R9). -/
def freqOk (tol p y : F) : Bool := decide (0 < y) && atMostPitch p (y - tol) && atLeastPitch p (y + tol)

/-- The tolerance at a pitch: the instance's own, and never above 1e-3 Hz at pitches 0 and 12
(00_scope.md R9(b); log 2). -/
def pitchTolerance (tol p : F) : F :=
  if (p = 0 ∨ p = 12) ∧ ¬ (0 < tol ∧ tol ≤ 1 / 1000) then 1 / 1000 else tol

/-- FREQ (00_scope.md R9, 40_oscillator_bank.md R111): exact at multiples of 12 in the reference carrier;
at every other pitch a free value within the tolerance of the real `65.406 × 2^(p/12)` (log 2). -/
def freq (n : Numerics) (p : F) : F :=
  if n.carrier = .exact ∧ (p / 12).den = 1 then octaveFreq (p / 12).num
  else if freqOk (pitchTolerance n.freqTolerance p) p (Config.freeFreq n.freqIndex p) then
    Config.freeFreq n.freqIndex p
  else freqNear (pitchTolerance n.freqTolerance p) p

/-- SIN: a free value within the bounds `|SIN(x)| ≤ 1`, `SIN(0) = 0` of 00_scope.md R10 (log 3). -/
def sin (n : Numerics) (x : F) : F := if x = 0 then 0 else clamp (Config.freeSin n.sinIndex x) (-1) 1

/-- TWO_PI: a free positive value (00_scope.md R10; log 4). -/
def twoPi (n : Numerics) : F := if 0 < Config.freeTwoPi n.twoPiIndex then Config.freeTwoPi n.twoPiIndex else 1

/-- `inc = FREQ(pitch) / NATIVE_RATE`, strictly between 0 and 1 in every carrier: where a rounding would reach
either, the exact quotient (40_oscillator_bank.md R112). -/
def phaseInc (cfg : Config) (pitch : F) : F :=
  let v := fdiv cfg.numerics (freq cfg.numerics pitch) (cfg.nativeRate : F)
  if 0 < v ∧ v < 1 then v else freq cfg.numerics pitch / (cfg.nativeRate : F)

/-- The vibrato phase step `TWO_PI × 15 / NATIVE_RATE`, below TWO_PI in every carrier (00_scope.md R10,
44_effect_modulator.md R203). -/
def vibInc (cfg : Config) : F :=
  below (twoPi cfg.numerics)
    (fdiv cfg.numerics (fmul cfg.numerics (twoPi cfg.numerics) 15) (cfg.nativeRate : F))
    (twoPi cfg.numerics * 15 / (cfg.nativeRate : F))

end Sys2Proof.Machine
end

