-- ==== Sys2Proof/Machine/Domain.lean ====
section
/-! DEFINITION. Domains: the well-formedness predicate WF of 10_state.md R55 on the snapshot fields
(46_snapshot.md R243) and the operand ranges of 30_encoding.md R92. All are decidable. -/

namespace Sys2Proof.Machine

/-- An F value that is a whole number `0..hi` (the ranges of 10_state.md R26 to R28). -/
abbrev WholeUpTo (x : F) (hi : Int) : Prop := x.den = 1 ∧ 0 ≤ x.num ∧ x.num ≤ hi

/-- `0 ≤ vib_phase < TWO_PI` (10_state.md R29), with 0 named apart because TWO_PI is a free positive value. -/
abbrev VibPhaseOk (n : Numerics) (x : F) : Prop := x = 0 ∨ (0 < x ∧ x < twoPi n)

/-- WF on the whole-number fields of one ChannelState: what the schedulers and the addresses rest on
(10_state.md R55). -/
abbrev ControlWF (cs : ChannelState) : Prop :=
  (-1 ≤ cs.sfxId ∧ cs.sfxId ≤ 63) ∧
  (cs.row ≤ 32 ∧ (cs.sfxId ≠ -1 → cs.row ≤ 31)) ∧
  (-1 ≤ cs.lastNoteIdx ∧ cs.lastNoteIdx ≤ 31) ∧
  (1 ≤ cs.tickCounter ∧ cs.tickCounter ≤ cs.speed ∧ cs.speed ≤ 255) ∧
  cs.loopStart ≤ 255 ∧ cs.loopEnd ≤ 255 ∧
  cs.loopActive = decide (cs.loopStart < cs.loopEnd)

/-- WF on the float fields of one ChannelState (10_state.md R55). -/
abbrev SignalWF (n : Numerics) (cs : ChannelState) : Prop :=
  (0 ≤ cs.phi ∧ cs.phi < 1) ∧
  (cs.noiseSample = -1 ∨ cs.noiseSample = 1) ∧
  WholeUpTo cs.currentVol 7 ∧
  WholeUpTo cs.currentPitchVal 63 ∧
  WholeUpTo cs.slideStartPitch 63 ∧
  VibPhaseOk n cs.vibPhase

/-- WF on one ChannelState (10_state.md R55). The fifteen bits of `lfsr` are its type. -/
abbrev ChannelStateWF (n : Numerics) (cs : ChannelState) : Prop := ControlWF cs ∧ SignalWF n cs

/-- WF on a Channel: its own state and its child's alike (10_state.md R55). -/
abbrev ChannelWF (n : Numerics) (ch : Channel) : Prop := ChannelStateWF n ch.cs ∧ ChannelStateWF n ch.child

/-- WF on the four channels (10_state.md R55). -/
abbrev ChannelsWF (n : Numerics) (b : Bank) : Prop := ∀ c : ChanId, ChannelWF n (bankGet b c)

/-- WF on the music scalars and the tick accumulator (10_state.md R55). -/
abbrev ScalarsWF (cfg : Config) (x : Snapshot) : Prop :=
  x.musicPattern ≤ 63 ∧
  (1 ≤ x.musicTickTimer ∧ x.musicTickTimer ≤ 8160) ∧
  (1 ≤ x.musicSpeed ∧ x.musicSpeed ≤ 255) ∧
  x.musicLoopStart ≤ 63 ∧ x.musicMask ≤ 15 ∧
  x.tickAcc < cfg.samplesPerTick

/-- WF_SNAPSHOT (46_snapshot.md R243). -/
abbrev SnapshotWF (cfg : Config) (x : Snapshot) : Prop := ChannelsWF cfg.numerics x.ch ∧ ScalarsWF cfg x

/-- WF_SNAPSHOT as SETSTATE evaluates it (46_snapshot.md R242). -/
def snapshotOk (cfg : Config) (x : Snapshot) : Bool :=
  decide (ChannelsWF cfg.numerics x.ch) && decide (ScalarsWF cfg x)

/-- TRIGGER's operands: `n` in 0..63 and `r0` in 0..31 or absent; `chan` is any integer or absent
(30_encoding.md R91, R92). -/
abbrev TriggerDomain (n : Int) (r0 : Option Int) : Prop :=
  (0 ≤ n ∧ n ≤ 63) ∧ (0 ≤ r0.getD 0 ∧ r0.getD 0 ≤ 31)

/-- MUSIC_START's operands: `p` in 0..63 and `mask` in 0..15 (30_encoding.md R91, R92). -/
abbrev MusicStartDomain (p mask : Int) : Prop := (0 ≤ p ∧ p ≤ 63) ∧ (0 ≤ mask ∧ mask ≤ 15)

/-- GENERATE's operand: `count` at least 0 (30_encoding.md R91, R92). -/
abbrev GenerateDomain (count : Int) : Prop := 0 ≤ count

end Sys2Proof.Machine
end

