-- ==== Sys2Proof/WellFormed.lean ====
section
/-! DEFINITION. Well-formed instructions: the operand domains of 30_encoding.md R92 and 46_snapshot.md
R243. Row, pattern and header fields have the width of their encoding as their type, so every value of
theirs is well formed (R93 to R98). -/

namespace Sys2Proof

/-- The operands of an instruction lie in the domains the spec gives them. -/
abbrev Instr.WellFormed (cfg : Config) : Instr → Prop
  | .trigger n _ r0 => Machine.TriggerDomain n r0
  | .musicStart p mask => Machine.MusicStartDomain p mask
  | .generate count => Machine.GenerateDomain count
  | .setState x => Machine.SnapshotWF cfg x
  | .effNone | .effSlide | .effVibrato | .effDrop | .effFadeIn | .effFadeOut | .effRsv6 | .effRsv7
  | .waveTri | .waveTilt | .waveSaw | .waveSquare | .wavePulse | .waveOrgan | .wavePhaser | .waveNoise
  | .patPlay _ | .patSilent | .patLoopStart | .patLoopBack | .patStop | .patNext
  | .note _ _ _ _ | .hdr _ _ _
  | .reset | .musicStop | .sample | .update | .getState => True

/-- The four encoding formats of spec/opcode_table.json. -/
inductive Format where
  | note16 | pat8 | slot68 | hostOp
deriving DecidableEq, Repr

/-- The format of an instruction's row in spec/opcode_table.json. -/
def Instr.format : Instr → Format
  | .effNone | .effSlide | .effVibrato | .effDrop | .effFadeIn | .effFadeOut | .effRsv6 | .effRsv7
  | .waveTri | .waveTilt | .waveSaw | .waveSquare | .wavePulse | .waveOrgan | .wavePhaser | .waveNoise
  | .note _ _ _ _ => .note16
  | .patPlay _ | .patSilent | .patLoopStart | .patLoopBack | .patStop | .patNext => .pat8
  | .hdr _ _ _ => .slot68
  | .reset | .trigger _ _ _ | .musicStart _ _ | .musicStop | .sample | .generate _ | .update
  | .getState | .setState _ => .hostOp

/-- The format of what a unit fetches. -/
def Fetch.format : Fetch → Format
  | .row _ _ | .effectBits _ _ | .waveBits _ => .note16
  | .entry _ | .entryMark _ | .entryAdvance _ _ => .pat8
  | .header _ _ _ => .slot68
  | .call _ => .hostOp

end Sys2Proof
end

