-- ==== Sys2Proof/Decode.lean ====
section
/-! DEFINITION. Decoding and encoding: the bit layouts of 30_encoding.md, total on every fetch, and the
encoder written from the same tables. -/

namespace Sys2Proof

/-! ### Fields of a note row (30_encoding.md R82, R83) -/

/-- `key = byte0[5:0]`. -/
def rowKey (b0 : Byte) : BitVec 6 := b0.extractLsb' 0 6

/-- `effect = byte1[1:0] | (byte0[6] << 2)`. -/
def rowEff (b0 b1 : Byte) : BitVec 3 := (b0.extractLsb' 6 1) ++ (b1.extractLsb' 0 2)

/-- `vol = byte1[4:2]`. -/
def rowVol (b1 : Byte) : BitVec 3 := b1.extractLsb' 2 3

/-- `wave = byte1[7:5]`. -/
def rowWave (b1 : Byte) : BitVec 3 := b1.extractLsb' 5 3

/-! ### Fields of a pattern entry (30_encoding.md R86) -/

/-- `instr = b[5:0]`. -/
def entryInstr (b : Byte) : BitVec 6 := b.extractLsb' 0 6

/-- `empty = b[6]`. -/
def entryEmpty (b : Byte) : Bool := b.getLsbD 6

/-- `meta = b[7]`. -/
def entryMeta (b : Byte) : Bool := b.getLsbD 7

/-! ### Code tables -/

/-- The effect of a code (30_encoding.md R89). -/
def effectOfCode (c : BitVec 3) : Effect :=
  match c.toNat with
  | 0 => .none
  | 1 => .slide
  | 2 => .vibrato
  | 3 => .drop
  | 4 => .fadeIn
  | 5 => .fadeOut
  | 6 => .rsv6
  | _ => .rsv7

/-- The code of an effect (30_encoding.md R89). -/
def codeOfEffect : Effect → BitVec 3
  | .none => 0#3
  | .slide => 1#3
  | .vibrato => 2#3
  | .drop => 3#3
  | .fadeIn => 4#3
  | .fadeOut => 5#3
  | .rsv6 => 6#3
  | .rsv7 => 7#3

/-- The instruction of an effect (30_encoding.md R89). -/
def effectInstr : Effect → Instr
  | .none => .effNone
  | .slide => .effSlide
  | .vibrato => .effVibrato
  | .drop => .effDrop
  | .fadeIn => .effFadeIn
  | .fadeOut => .effFadeOut
  | .rsv6 => .effRsv6
  | .rsv7 => .effRsv7

/-- `WAVE_MAP[wf]` (30_encoding.md R90, 40_oscillator_bank.md R114). -/
def waveOfCode (m : WaveMap) (c : BitVec 3) : Waveform :=
  match c.toNat with
  | 0 => m.w0
  | 1 => m.w1
  | 2 => m.w2
  | 3 => m.w3
  | 4 => m.w4
  | 5 => m.w5
  | 6 => m.w6
  | _ => m.w7

/-- The least code that WAVE_MAP sends to a generator; the only one when the map is a bijection. -/
def codeOfWave (m : WaveMap) (w : Waveform) : BitVec 3 :=
  if m.w0 = w then 0#3 else if m.w1 = w then 1#3 else if m.w2 = w then 2#3
  else if m.w3 = w then 3#3 else if m.w4 = w then 4#3 else if m.w5 = w then 5#3
  else if m.w6 = w then 6#3 else 7#3

/-- The instruction of a generator (30_encoding.md R90). -/
def waveInstr : Waveform → Instr
  | .tri => .waveTri
  | .tilt => .waveTilt
  | .saw => .waveSaw
  | .square => .waveSquare
  | .pulse => .wavePulse
  | .organ => .waveOrgan
  | .phaser => .wavePhaser
  | .noise => .waveNoise

/-! ### Decoding -/

/-- A host operation by its number (30_encoding.md R91), its operands inside their ranges (R92). A
snapshot's own domain (46_snapshot.md R243) depends on the configuration and is checked by SETSTATE. -/
def decodeCall (h : HostCall) : Except DecodeError Instr :=
  match h.number, h.args, h.snapshot with
  | 0, [], none => .ok .reset
  | 1, [some n, chan, r0], none =>
    if Machine.TriggerDomain n r0 then .ok (.trigger n chan r0) else .error (.operandDomain "TRIGGER")
  | 2, [some p, some mask], none =>
    if Machine.MusicStartDomain p mask then .ok (.musicStart p mask)
    else .error (.operandDomain "MUSIC_START")
  | 3, [], none => .ok .musicStop
  | 4, [], none => .ok .sample
  | 5, [some count], none =>
    if Machine.GenerateDomain count then .ok (.generate count) else .error (.operandDomain "GENERATE")
  | 6, [], none => .ok .update
  | 7, [], none => .ok .getState
  | 8, [], some x => .ok (.setState x)
  | n, _, _ => if n ≤ 8 then .error (.operandShape n) else .error (.unknownOperation n)

/-- The instruction a unit reads from what it fetches (30_encoding.md R82 to R91), for an instance's
WAVE_MAP. -/
def decode (m : WaveMap) : Fetch → Except DecodeError Instr
  | .row b0 b1 => .ok (.note (rowKey b0) (rowEff b0 b1) (rowVol b1) (rowWave b1))
  | .effectBits b0 b1 => .ok (effectInstr (effectOfCode (rowEff b0 b1)))
  | .waveBits b1 => .ok (waveInstr (waveOfCode m (rowWave b1)))
  | .entry b => .ok (if entryEmpty b then .patSilent else .patPlay (entryInstr b))
  | .entryMark b0 => if entryMeta b0 then .ok .patLoopStart else .error .noMarker
  | .entryAdvance b1 b2 =>
    .ok (if entryMeta b1 then .patLoopBack else if entryMeta b2 then .patStop else .patNext)
  | .header b65 b66 b67 => .ok (.hdr b65 b66 b67)
  | .call h => decodeCall h

/-! ### Encoding: ignored and foreign bits are written 0 (30_encoding.md R99) -/

/-- The two bytes of a note row, `byte0 = k | ((e >> 2) << 6)`, `byte1 = (e & 3) | (v << 2) | (w << 5)`. -/
def rowBytes (key : BitVec 6) (eff vol wave : BitVec 3) : Byte × Byte :=
  (0#1 ++ eff.extractLsb' 2 1 ++ key, wave ++ vol ++ eff.extractLsb' 0 2)

/-- A row that carries an effect code and nothing else. -/
def effectRow (e : Effect) : Fetch :=
  .effectBits (rowBytes 0#6 (codeOfEffect e) 0#3 0#3).1 (rowBytes 0#6 (codeOfEffect e) 0#3 0#3).2

/-- A row's byte 1 that carries a waveform code and nothing else. -/
def waveRow (m : WaveMap) (w : Waveform) : Fetch :=
  .waveBits (rowBytes 0#6 0#3 0#3 (codeOfWave m w)).2

/-- What the unit of an instruction fetches for it. -/
def encode (m : WaveMap) : Instr → Fetch
  | .effNone => effectRow .none
  | .effSlide => effectRow .slide
  | .effVibrato => effectRow .vibrato
  | .effDrop => effectRow .drop
  | .effFadeIn => effectRow .fadeIn
  | .effFadeOut => effectRow .fadeOut
  | .effRsv6 => effectRow .rsv6
  | .effRsv7 => effectRow .rsv7
  | .waveTri => waveRow m .tri
  | .waveTilt => waveRow m .tilt
  | .waveSaw => waveRow m .saw
  | .waveSquare => waveRow m .square
  | .wavePulse => waveRow m .pulse
  | .waveOrgan => waveRow m .organ
  | .wavePhaser => waveRow m .phaser
  | .waveNoise => waveRow m .noise
  | .patPlay n => .entry (0#2 ++ n)
  | .patSilent => .entry 0x40#8
  | .patLoopStart => .entryMark 0x80#8
  | .patLoopBack => .entryAdvance 0x80#8 0x00#8
  | .patStop => .entryAdvance 0x00#8 0x80#8
  | .patNext => .entryAdvance 0x00#8 0x00#8
  | .note key eff vol wave => .row (rowBytes key eff vol wave).1 (rowBytes key eff vol wave).2
  | .hdr speed loopStart loopEnd => .header speed loopStart loopEnd
  | .reset => .call ⟨0, [], none⟩
  | .trigger n chan r0 => .call ⟨1, [some n, chan, r0], none⟩
  | .musicStart p mask => .call ⟨2, [some p, some mask], none⟩
  | .musicStop => .call ⟨3, [], none⟩
  | .sample => .call ⟨4, [], none⟩
  | .generate count => .call ⟨5, [some count], none⟩
  | .update => .call ⟨6, [], none⟩
  | .getState => .call ⟨7, [], none⟩
  | .setState x => .call ⟨8, [], some x⟩

/-! ### The opcode table's words (log 12) -/

/-- The fetch that a word of the table singles out. A NOTE16 word belongs to three rows of the table at
once: where only its effect bits are set it is read by the effect modulator, where of the two codes only
the waveform is set by the mixer, else by the fire as a NOTE. A PAT8 byte is read as entry 0 of a pattern:
its marker bit if set, else the entry itself. 24 bits are the header bytes 65, 66, 67 in that order, 544
bits a whole slot (DESIGN CHOICE, log 12). -/
def tableFetch (nbits w : Nat) : Option Fetch :=
  match nbits with
  | 8 =>
    let b := BitVec.ofNat 8 w
    some (if entryMeta b then .entryMark b else .entry b)
  | 16 =>
    let b0 := BitVec.ofNat 8 w
    let b1 := BitVec.ofNat 8 (w / 2 ^ 8)
    some (if rowEff b0 b1 ≠ 0#3 ∧ rowWave b1 = 0#3 then .effectBits b0 b1
          else if rowEff b0 b1 = 0#3 ∧ rowWave b1 ≠ 0#3 then .waveBits b1
          else .row b0 b1)
  | 24 => some (.header (BitVec.ofNat 8 w) (BitVec.ofNat 8 (w / 2 ^ 8)) (BitVec.ofNat 8 (w / 2 ^ 16)))
  | 544 =>
    some (.header (BitVec.ofNat 8 (w / 2 ^ 520)) (BitVec.ofNat 8 (w / 2 ^ 528))
      (BitVec.ofNat 8 (w / 2 ^ 536)))
  | _ => none

/-- The instruction the decoder reads from a word of the opcode table, under the default WAVE_MAP. -/
def decodeTableWord (nbits w : Nat) : Option Instr :=
  match tableFetch nbits w with
  | none => none
  | some f =>
    match decode WaveMap.default f with
    | .ok i => some i
    | .error _ => none

end Sys2Proof
end

