-- ==== Sys2Proof/Machine/State.lean ====
section
/-! DEFINITION. The machine's state: the engine state S of 10_state.md R20, the inputs the VM presents
(R49 to R54), the configuration, and the model's own fields; the reasons a step can stop; reset. -/

namespace Sys2Proof.Machine

/-- A memory of the VM: (address, byte) pairs, addresses strictly rising, no byte equal to what an
unlisted address reads as (`Memory.wf`). -/
abbrev Memory := List Host.Cell

/-- The input record IN of 10_state.md R49 to R54: what the VM presents at present. The volumes are raw;
an operation reads them bounded to 0..10 (R49). -/
structure Inputs where
  instr    : Memory
  pat      : Memory
  volMusic : Int
  volSfx   : Int
  mute     : Bool
  distort  : Bool
deriving DecidableEq, Repr

/-- The state S of 10_state.md R20: the snapshot's fields and `pull_acc` (R48). -/
structure Engine extends Snapshot where
  pullAcc : F
deriving DecidableEq, Repr

/-- The locals of an inner instruction that is run on its own (the model's field, log 13): `chan` is the
channel it works on, `pitch` and `vol` what an effect yields (44_effect_modulator.md R210), `osc` the raw
sample a waveform yields (40_oscillator_bank.md R126), `minSpeed` the `m` of a dispatch
(42_tick_scheduler.md R159). -/
structure Work where
  chan     : ChanId
  pitch    : F
  vol      : F
  osc      : F
  minSpeed : Option Nat
deriving DecidableEq, Repr

/-- What an operation returns to its caller (47_host_operations.md R260; the model's field, log 18). -/
inductive OpResult where
  | none
  | channel (c : ChanId)
  | pcm (v : Int)
  | samples (vs : List Int)
  | snapshot (x : Snapshot)
deriving DecidableEq, Repr

/-- One act of the VM between two operations, or one operation it issues (00_scope.md R16,
47_host_operations.md R258; log 10, log 17). -/
inductive Request where
  | call (h : HostCall)
  | pokeInstr (a : Nat) (b : Byte)
  | pokePat (a : Nat) (b : Byte)
  | setVolMusic (v : Int)
  | setVolSfx (v : Int)
  | setMute (v : Bool)
  | setDistort (v : Bool)
deriving DecidableEq, Repr

/-- The whole machine as plain data. `eng` is the spec's S, `inp` the inputs, `cfg` the configuration
(never written, log 6); `queue`, `work`, `result` and `sink` are the model's own (log 10, 13, 18). -/
structure State where
  cfg    : Config
  eng    : Engine
  inp    : Inputs
  queue  : List Request
  work   : Work
  result : OpResult
  sink   : List (List Int)
deriving DecidableEq, Repr

/-- Why a step can stop with a fault: for no reason. The block raises nothing and an operation's outcome is
no sum with a fault (60_exceptions.md R265, R277), so the type is empty; what has no meaning is refused.
Safe. -/
inductive Fault where
deriving DecidableEq, Repr

/-- Why a step can refuse an instruction. -/
inductive Refusal where
  /-- No instruction of this model uses it: every arm of exec has its meaning. Safe. -/
  | notModelled (mnemonic : String)
  /-- Raised by an operation with an operand outside its range, `refuse` of 30_encoding.md R92
  (93_implementation_defined.md U9; log 19). Safe: the spec gives it no meaning. -/
  | operandOutsideDomain (mnemonic : String)
  /-- Raised by SETSTATE with a snapshot that is not well formed, `refuse` of 46_snapshot.md R243
  (93_implementation_defined.md U10; log 19). Safe: the spec gives it no meaning. -/
  | snapshotNotWellFormed
  /-- Raised by SAMPLE, GENERATE and UPDATE when an Active channel's slot lies outside 0..63, its row above 31
  or its rendered row outside −1..31, or the music cursor above 63, which no well-formed state has
  (20_memory.md R68; log 16). Safe: the spec gives it no meaning. -/
  | cursorOutsideMemory
  /-- Raised by a step that takes a VM write to an offset outside instrument or pattern memory
  (20_memory.md R61, R62; log 17). Safe: the spec gives no such address. -/
  | vmWriteOutsideMemory (a : Nat)
  /-- Raised by the step for a call that decodes to no operation (30_encoding.md R91, R92; log 11). Safe. -/
  | undecodable (e : DecodeError)
deriving DecidableEq, Repr

/-- CS_RESET (70_reset_and_hazards.md R285). -/
def channelStateReset : ChannelState :=
  { sfxId := -1, lfsr := Config.seedOther, phi := 0, noiseSample := 1, currentVol := 0,
    currentPitchVal := 0, slideStartPitch := 0, vibPhase := 0, row := 0, lastNoteIdx := -1,
    tickCounter := 1, speed := 1, loopStart := 0, loopEnd := 0, loopActive := false }

/-- A channel after RESET (70_reset_and_hazards.md R285). -/
def channelReset : Channel :=
  { cs := channelStateReset, child := channelStateReset, isMusic := false, effect := .none }

/-- S after RESET, every field (70_reset_and_hazards.md R285). -/
def Engine.reset : Engine :=
  { ch := ⟨channelReset, channelReset, channelReset, channelReset⟩,
    musicPattern := 0, musicTickTimer := 1, musicSpeed := 1, musicLoopStart := 0, musicMask := 0,
    musicPlaying := false, tickAcc := 0, pullAcc := 0 }

/-- The inputs before the VM presents any: memories with nothing listed, volumes 10, flags clear
(DESIGN CHOICE, log 8, log 9). -/
def Inputs.reset : Inputs :=
  { instr := [], pat := [], volMusic := 10, volSfx := 10, mute := false, distort := false }

/-- The model's locals at rest (log 13). -/
def Work.rest : Work := { chan := 0, pitch := 0, vol := 0, osc := 0, minSpeed := none }

/-- The machine right after construction, for a configuration (70_reset_and_hazards.md R285, R288). -/
def State.resetOf (cfg : Config) : State :=
  { cfg := cfg, eng := Engine.reset, inp := Inputs.reset, queue := [], work := Work.rest,
    result := .none, sink := [] }

/-- The machine right after reset with the spec's default parameters (log 6). -/
def State.reset : State := State.resetOf Config.default

end Sys2Proof.Machine
end

