-- ==== Sys2Proof/Machine/Ops.lean ====
section
/-! DEFINITION. Named operations over memories, channels and the state. There is no operation that takes
an exception and none that returns from one: the block has neither (60_exceptions.md R265, R270, R271). -/

namespace Sys2Proof.Machine

/-! ### The VM's memories (20_memory.md) -/

/-- What an unlisted address of either memory reads as (DESIGN CHOICE, log 8). -/
def unlistedByte : Byte := 0x00#8

/-- The byte at an offset (20_memory.md R64). -/
def Memory.read : Memory → Nat → Byte
  | [], _ => unlistedByte
  | (x, y) :: t, a => if x = a then y else Memory.read t a

/-- The VM's write of one byte (20_memory.md R71), keeping the canonical form. -/
def Memory.write : Memory → Nat → Byte → Memory
  | [], a, b => if b = unlistedByte then [] else [(a, b)]
  | (x, y) :: t, a, b =>
    if a < x then (if b = unlistedByte then (x, y) :: t else (a, b) :: (x, y) :: t)
    else if a = x then (if b = unlistedByte then t else (a, b) :: t)
    else (x, y) :: Memory.write t a b

/-- The canonical form from an address on: rising addresses below `size`, no unlisted byte listed. -/
def Memory.wfFrom (size : Nat) : Nat → Memory → Bool
  | _, [] => true
  | lo, (x, y) :: t =>
    decide (lo ≤ x) && decide (x < size) && decide (y ≠ unlistedByte) && Memory.wfFrom size (x + 1) t

/-- The canonical form of a memory of `size` bytes. -/
def Memory.wf (size : Nat) (m : Memory) : Bool := Memory.wfFrom size 0 m

/-! ### The four channels (10_state.md R40) -/

/-- Read channel `c` of the engine. -/
def Engine.chan (e : Engine) (c : ChanId) : Channel := bankGet e.ch c

/-- Write channel `c` of the engine. -/
def Engine.setChan (e : Engine) (c : ChanId) (ch : Channel) : Engine := { e with ch := bankSet e.ch c ch }

/-! ### State updates -/

/-- Replace the engine state. -/
def State.withEngine (s : State) (e : Engine) : State := { s with eng := e }

/-- Record what an operation returns (log 18). -/
def State.withResult (s : State) (r : OpResult) : State := { s with result := r }

/-- Deliver a block to the host, HOST_SINK of 47_host_operations.md R255. -/
def State.deliver (s : State) (block : List Int) : State := { s with sink := s.sink ++ [block] }

/-- The channel an inner instruction run on its own works on (log 13). -/
def State.curChan (s : State) : Channel := s.eng.chan s.work.chan

/-- Write the ChannelState of that channel. -/
def State.putCs (s : State) (cs : ChannelState) : State :=
  s.withEngine (s.eng.setChan s.work.chan { s.curChan with cs := cs })

end Sys2Proof.Machine
end

