-- ==== Sys2Proof/Machine/Operands.lean ====
section
/-! DEFINITION. Operands: the offsets of 20_memory.md R61, R62 and the bytes the block reads (R66), and
the inputs as an operation samples them (10_state.md R49 to R52). -/

namespace Sys2Proof.Machine

/-- Offset of byte 0 of row `r` of slot `n`, `68n + 2r` (20_memory.md R61). -/
def rowOffset (n r : Nat) : Nat := 68 * n + 2 * r

/-- Offset of header byte `k` (65, 66 or 67) of slot `n` (20_memory.md R61). -/
def headerOffset (n k : Nat) : Nat := 68 * n + k

/-- Offset of the entry of channel `c` in pattern `p`, `4p + c` (20_memory.md R62). -/
def entryOffset (p : Nat) (c : ChanId) : Nat := 4 * p + c.val

/-- A byte of instrument memory. -/
def instrByte (inp : Inputs) (a : Nat) : Byte := Memory.read inp.instr a

/-- The entry of channel `c` in pattern `p` (42_tick_scheduler.md R159). -/
def patEntry (inp : Inputs) (p : Nat) (c : ChanId) : Byte := Memory.read inp.pat (entryOffset p c)

/-- Byte 0 of the row under a channel's cursor (42_tick_scheduler.md R171). -/
def fireByte0 (inp : Inputs) (cs : ChannelState) : Byte := instrByte inp (rowOffset cs.sfxId.toNat cs.row)

/-- Byte 1 of the row under a channel's cursor (42_tick_scheduler.md R171). -/
def fireByte1 (inp : Inputs) (cs : ChannelState) : Byte :=
  instrByte inp (rowOffset cs.sfxId.toNat cs.row + 1)

/-- Byte 1 of the row a channel renders (45_sample_mixer_output.md R217). SAMPLE reads it only where
`last_note_idx` is one of 0..31: it refuses any other cursor of an Active channel (log 16). -/
def renderByte1 (inp : Inputs) (cs : ChannelState) : Byte :=
  instrByte inp (rowOffset cs.sfxId.toNat cs.lastNoteIdx.toNat + 1)

/-- A master volume bounded to 0..10 (10_state.md R49, R50). -/
def boundVol (v : Int) : Int := if v < 0 then 0 else if 10 < v then 10 else v

/-- A channel given by TRIGGER's `chan`, when it names one (30_encoding.md R92, 43_direct_trigger.md R186). -/
def namedChannel (chan : Option Int) : Option ChanId :=
  match chan with
  | some 0 => some 0
  | some 1 => some 1
  | some 2 => some 2
  | some 3 => some 3
  | _ => none

end Sys2Proof.Machine
end

