-- ==== Sys2Proof/Machine/Flags.lean ====
section
/-! DEFINITION. Flags and conditions: the block has no arithmetic flags (10_state.md R57); these are its
boolean state and the conditions its rules test. -/

namespace Sys2Proof.Machine

/-- Idle: `sfx_id = −1` (41_channel_state_machine.md R140). -/
abbrev Idle (cs : ChannelState) : Prop := cs.sfxId = -1

/-- `loop_active = (loop_end > loop_start)` (10_state.md R36, 30_encoding.md R85). -/
def loopActiveOf (loopStart loopEnd : Nat) : Bool := decide (loopStart < loopEnd)

/-- A row that keeps the pitch origin: nonzero volume and effect code 1 (42_tick_scheduler.md R173). -/
abbrev KeepsOrigin (eff vol : BitVec 3) : Prop := vol ≠ 0#3 ∧ eff = 1#3

/-- The cursor meets the end of an active loop (42_tick_scheduler.md R177). -/
abbrev Wraps (cs : ChannelState) (row : Nat) : Prop := cs.loopActive = true ∧ cs.loopEnd ≤ row

/-- A channel renders: it is Active and has a rendered row (45_sample_mixer_output.md R216). -/
abbrev Renders (cs : ChannelState) : Prop := cs.sfxId ≠ -1 ∧ cs.lastNoteIdx ≠ -1

/-- MUTED, on the bounded volumes (45_sample_mixer_output.md R226). -/
abbrev Muted (inp : Inputs) : Prop :=
  inp.mute = true ∨ (boundVol inp.volMusic = 0 ∧ boundVol inp.volSfx = 0)

/-- The cursors of a channel address rows of a slot, `last_note_idx = −1` naming none, or the channel is
Idle (20_memory.md R68). That SAMPLE refuses any other cursor is the model's choice (log 16). -/
abbrev CursorOk (cs : ChannelState) : Prop :=
  Idle cs ∨ ((0 ≤ cs.sfxId ∧ cs.sfxId ≤ 63) ∧ cs.row ≤ 31 ∧
    (-1 ≤ cs.lastNoteIdx ∧ cs.lastNoteIdx ≤ 31))

/-- Every cursor addresses its memory (20_memory.md R68; log 16). -/
abbrev CursorsOk (e : Engine) : Prop :=
  (CursorOk e.ch.c0.cs ∧ CursorOk e.ch.c1.cs ∧ CursorOk e.ch.c2.cs ∧ CursorOk e.ch.c3.cs) ∧
  e.musicPattern ≤ 63

end Sys2Proof.Machine
end

