-- ==== Sys2Proof/Machine/Effects.lean ====
section
/-! DEFINITION. The effect modulator (44_effect_modulator.md): what each effect code yields for one sample
of one channel, and RESOLVE. -/

namespace Sys2Proof.Machine

/-- What an effect yields: the pitch and volume of this sample, and the ChannelState after it
(44_effect_modulator.md R210). -/
structure Resolved where
  cs    : ChannelState
  pitch : F
  vol   : F
deriving DecidableEq, Repr

/-- `progress = 1 − tick_counter / speed`, below 1 in every carrier (44_effect_modulator.md R200); a free value for speed 0, which is
outside WF (log 23). -/
def progress (n : Numerics) (cs : ChannelState) : F :=
  if cs.speed = 0 then Config.freeProgress cs.tickCounter
  else below 1 (fsub n 1 (fdiv n (cs.tickCounter : F) (cs.speed : F)))
    (1 - (cs.tickCounter : F) / (cs.speed : F))

/-- EFF.NONE (44_effect_modulator.md R201). -/
def effNone (cs : ChannelState) : Resolved := ⟨cs, cs.currentPitchVal, cs.currentVol⟩

/-- EFF.SLIDE (44_effect_modulator.md R202). -/
def effSlide (n : Numerics) (cs : ChannelState) : Resolved :=
  ⟨cs, fadd n cs.slideStartPitch (fmul n (fsub n cs.currentPitchVal cs.slideStartPitch) (progress n cs)),
    cs.currentVol⟩

/-- The vibrato phase after one sample, wrapped by one subtraction (44_effect_modulator.md R203) into
`[0, TWO_PI)` in every carrier (10_state.md R29). -/
def vibAdvance (cfg : Config) (v : F) : F :=
  let period := twoPi cfg.numerics
  let ph := below (2 * period) (fadd cfg.numerics v (vibInc cfg)) (v + vibInc cfg)
  if period ≤ ph then below period (fsub cfg.numerics ph period) (ph - period) else ph

/-- EFF.VIBRATO, which uses the phase before advancing it (44_effect_modulator.md R203). -/
def effVibrato (cfg : Config) (cs : ChannelState) : Resolved :=
  ⟨{ cs with vibPhase := vibAdvance cfg cs.vibPhase },
    fadd cfg.numerics cs.currentPitchVal
      (fmul cfg.numerics (sin cfg.numerics cs.vibPhase) (rnd cfg.numerics (1 / 4))),
    cs.currentVol⟩

/-- EFF.DROP (44_effect_modulator.md R204). -/
def effDrop (n : Numerics) (cs : ChannelState) : Resolved :=
  ⟨cs, fmul n cs.slideStartPitch (fsub n 1 (progress n cs)), cs.currentVol⟩

/-- EFF.FADE_IN (44_effect_modulator.md R205). -/
def effFadeIn (n : Numerics) (cs : ChannelState) : Resolved :=
  ⟨cs, cs.currentPitchVal, fmul n cs.currentVol (progress n cs)⟩

/-- EFF.FADE_OUT (44_effect_modulator.md R206). -/
def effFadeOut (n : Numerics) (cs : ChannelState) : Resolved :=
  ⟨cs, cs.currentPitchVal, fmul n cs.currentVol (fsub n 1 (progress n cs))⟩

/-- EFF.RSV6, an explicit no-op arm (44_effect_modulator.md R208). -/
def effRsv6 (cs : ChannelState) : Resolved := ⟨cs, cs.currentPitchVal, cs.currentVol⟩

/-- EFF.RSV7, an explicit no-op arm (44_effect_modulator.md R209). -/
def effRsv7 (cs : ChannelState) : Resolved := ⟨cs, cs.currentPitchVal, cs.currentVol⟩

/-- RESOLVE: the transform of the latched effect (44_effect_modulator.md R210). -/
def resolve (cfg : Config) (ch : Channel) : Resolved :=
  match ch.effect with
  | .none => effNone ch.cs
  | .slide => effSlide cfg.numerics ch.cs
  | .vibrato => effVibrato cfg ch.cs
  | .drop => effDrop cfg.numerics ch.cs
  | .fadeIn => effFadeIn cfg.numerics ch.cs
  | .fadeOut => effFadeOut cfg.numerics ch.cs
  | .rsv6 => effRsv6 ch.cs
  | .rsv7 => effRsv7 ch.cs

/-- Run alone, an effect works on the channel of `work.chan` and leaves its pair in `work` (log 13). -/
def State.putResolved (s : State) (r : Resolved) : State :=
  { s.putCs r.cs with work := { s.work with pitch := r.pitch, vol := r.vol } }

/-- The instruction EFF.NONE. -/
def execEffNone (s : State) : Host.Outcome State Fault Refusal := .next (s.putResolved (effNone s.curChan.cs))

/-- The instruction EFF.SLIDE. -/
def execEffSlide (s : State) : Host.Outcome State Fault Refusal :=
  .next (s.putResolved (effSlide s.cfg.numerics s.curChan.cs))

/-- The instruction EFF.VIBRATO. -/
def execEffVibrato (s : State) : Host.Outcome State Fault Refusal :=
  .next (s.putResolved (effVibrato s.cfg s.curChan.cs))

/-- The instruction EFF.DROP. -/
def execEffDrop (s : State) : Host.Outcome State Fault Refusal :=
  .next (s.putResolved (effDrop s.cfg.numerics s.curChan.cs))

/-- The instruction EFF.FADE_IN. -/
def execEffFadeIn (s : State) : Host.Outcome State Fault Refusal :=
  .next (s.putResolved (effFadeIn s.cfg.numerics s.curChan.cs))

/-- The instruction EFF.FADE_OUT. -/
def execEffFadeOut (s : State) : Host.Outcome State Fault Refusal :=
  .next (s.putResolved (effFadeOut s.cfg.numerics s.curChan.cs))

/-- The instruction EFF.RSV6. -/
def execEffRsv6 (s : State) : Host.Outcome State Fault Refusal := .next (s.putResolved (effRsv6 s.curChan.cs))

/-- The instruction EFF.RSV7. -/
def execEffRsv7 (s : State) : Host.Outcome State Fault Refusal := .next (s.putResolved (effRsv7 s.curChan.cs))

end Sys2Proof.Machine
end

