-- ==== Sys2Proof/Machine/Rows.lean ====
section
/-! DEFINITION. The slot header and the trigger core (43_direct_trigger.md), the note row and the
per-channel scheduler (42_tick_scheduler.md R169 to R179). -/

namespace Sys2Proof.Machine

/-! ### HDR and the trigger core -/

/-- HDR: latch a slot's header bytes 65, 66, 67 (30_encoding.md R85, 43_direct_trigger.md R189). -/
def latchHeader (b65 b66 b67 : Byte) (cs : ChannelState) : ChannelState :=
  { cs with
    speed := max b65.toNat 1
    loopStart := b66.toNat
    loopEnd := b67.toNat
    loopActive := loopActiveOf b66.toNat b67.toNat }

/-- CHILD_TRIGGER_VALUE (43_direct_trigger.md R188). -/
def childTrigger : ChannelState :=
  { sfxId := -1, lfsr := Config.seedTrigger, phi := 0, noiseSample := 1, currentVol := 0,
    currentPitchVal := 0, slideStartPitch := 0, vibPhase := 0, row := 0, lastNoteIdx := -1,
    tickCounter := 1, speed := 1, loopStart := 0, loopEnd := 0, loopActive := false }

/-- A triggered ChannelState before its header is latched (43_direct_trigger.md R187). -/
def triggerBase (n r0 : Nat) : ChannelState :=
  { sfxId := (n : Int), lfsr := Config.seedTrigger, phi := 0, noiseSample := 1, currentVol := 0,
    currentPitchVal := 0, slideStartPitch := 0, vibPhase := 0, row := r0, lastNoteIdx := -1,
    tickCounter := 1, speed := 1, loopStart := 0, loopEnd := 0, loopActive := false }

/-- What TRIGGER_CORE leaves in its channel: nothing of the previous content survives
(43_direct_trigger.md R187). -/
def triggeredChannel (inp : Inputs) (n r0 : Nat) (isMusic : Bool) : Channel :=
  { cs := latchHeader (instrByte inp (headerOffset n 65)) (instrByte inp (headerOffset n 66))
      (instrByte inp (headerOffset n 67)) (triggerBase n r0)
    child := childTrigger
    isMusic := isMusic
    effect := .none }

/-- The instruction HDR, run alone on the channel of `work.chan` (log 13). -/
def execHdr (speed loopStart loopEnd : Byte) (s : State) : Host.Outcome State Fault Refusal :=
  .next (s.putCs (latchHeader speed loopStart loopEnd s.curChan.cs))

/-! ### NOTE and the per-channel scheduler -/

/-- NOTE: the row under the cursor is decoded into the channel, recorded as the rendered row, and the
cursor moves on, wraps or passes the end (42_tick_scheduler.md R171 to R178). The waveform code is
stored nowhere (10_state.md R59). -/
def latchNote (key : BitVec 6) (eff vol : BitVec 3) (ch : Channel) : Channel :=
  let r := ch.cs.row
  { ch with
    effect := effectOfCode eff
    cs := { ch.cs with
      currentVol := (vol.toNat : F)
      currentPitchVal := (key.toNat : F)
      slideStartPitch := if KeepsOrigin eff vol then ch.cs.slideStartPitch else (key.toNat : F)
      lastNoteIdx := (r : Int)
      row := if Wraps ch.cs (r + 1) then ch.cs.loopStart else r + 1
      sfxId := if ¬ Wraps ch.cs (r + 1) ∧ 31 < r + 1 then -1 else ch.cs.sfxId } }

/-- The instruction NOTE, run alone on the channel of `work.chan` (log 13, log 15). -/
def execNote (key : BitVec 6) (eff vol _wave : BitVec 3) (s : State) : Host.Outcome State Fault Refusal :=
  .next (s.withEngine (s.eng.setChan s.work.chan (latchNote key eff vol s.curChan)))

/-- A fire: reload the counter, fetch and decode the row, execute it (42_tick_scheduler.md R170, R171). -/
def fireRow (inp : Inputs) (ch : Channel) : Channel :=
  let b0 := fireByte0 inp ch.cs
  let b1 := fireByte1 inp ch.cs
  latchNote (rowKey b0) (rowEff b0 b1) (rowVol b1) { ch with cs := { ch.cs with tickCounter := ch.cs.speed } }

/-- CHANNEL_TICK (42_tick_scheduler.md R179). -/
def channelTick (inp : Inputs) (ch : Channel) : Channel :=
  if Idle ch.cs then ch
  else if ch.cs.tickCounter - 1 = 0 then fireRow inp ch
  else { ch with cs := { ch.cs with tickCounter := ch.cs.tickCounter - 1 } }

end Sys2Proof.Machine
end

