-- ==== Sys2Proof/Machine/Patterns.lean ====
section
/-! DEFINITION. Pattern entries, the dispatch and the music scheduler (42_tick_scheduler.md R156 to R168). -/

namespace Sys2Proof.Machine

/-- A dispatch in progress: the engine, and `m`, the least speed among the channels triggered so far
(42_tick_scheduler.md R159). -/
structure Dispatching where
  eng : Engine
  m   : Option Nat
deriving DecidableEq, Repr

/-- The lesser of a speed and the least one so far (42_tick_scheduler.md R159, R162). -/
def leastSpeed (m : Option Nat) (speed : Nat) : Nat :=
  match m with
  | none => speed
  | some k => if k ≤ speed then k else speed

/-- PAT.PLAY: trigger slot `n` on channel `c` as music (42_tick_scheduler.md R160). -/
def patPlay (inp : Inputs) (c : ChanId) (n : BitVec 6) (d : Dispatching) : Dispatching :=
  let ch := triggeredChannel inp n.toNat 0 true
  ⟨d.eng.setChan c ch, some (leastSpeed d.m ch.cs.speed)⟩

/-- PAT.SILENT: leave the channel alone (42_tick_scheduler.md R161). -/
def patSilent (d : Dispatching) : Dispatching := d

/-- PAT.LOOPSTART: `music_loop_start <- p`, p the pattern under dispatch (42_tick_scheduler.md R164). -/
def patLoopStart (e : Engine) : Engine := { e with musicLoopStart := e.musicPattern }

/-- PAT.LOOPBACK: `music_pattern <- music_loop_start` (42_tick_scheduler.md R165). -/
def patLoopBack (e : Engine) : Engine := { e with musicPattern := e.musicLoopStart }

/-- PAT.STOP: `music_playing <- false` (42_tick_scheduler.md R166). -/
def patStop (e : Engine) : Engine := { e with musicPlaying := false }

/-- PAT.NEXT: the next pattern, or halt past 63 (42_tick_scheduler.md R167). A cursor above 63 is outside WF
(log 23). -/
def patNext (e : Engine) : Engine :=
  if e.musicPattern = 63 then { e with musicPlaying := false }
  else { e with musicPattern := e.musicPattern + 1 }

/-- The entry of channel `c` in the pattern under dispatch: bit 6 selects (30_encoding.md R87). -/
def playEntry (inp : Inputs) (p : Nat) (c : ChanId) (d : Dispatching) : Dispatching :=
  if entryEmpty (patEntry inp p c) then patSilent d
  else patPlay inp c (entryInstr (patEntry inp p c)) d

/-- The four entries in ascending order (42_tick_scheduler.md R159). -/
def playEntries (inp : Inputs) (e : Engine) : Dispatching :=
  playEntry inp e.musicPattern 3 (playEntry inp e.musicPattern 2
    (playEntry inp e.musicPattern 1 (playEntry inp e.musicPattern 0 ⟨e, none⟩)))

/-- `music_speed` and the timer's reload (42_tick_scheduler.md R162, R163). -/
def reloadMusic (d : Dispatching) : Engine :=
  let m := d.m.getD 1
  { d.eng with musicSpeed := m, musicTickTimer := 32 * m }

/-- The marker of entry 0 (42_tick_scheduler.md R164). -/
def applyMark (b0 : Byte) (e : Engine) : Engine := if entryMeta b0 then patLoopStart e else e

/-- The cursor's move: loop-back over stop over next (42_tick_scheduler.md R168). -/
def applyAdvance (b1 b2 : Byte) (e : Engine) : Engine :=
  if entryMeta b1 then patLoopBack e else if entryMeta b2 then patStop e else patNext e

/-- DISPATCH (42_tick_scheduler.md R159). -/
def dispatch (inp : Inputs) (e : Engine) : Engine :=
  applyAdvance (patEntry inp e.musicPattern 1) (patEntry inp e.musicPattern 2)
    (applyMark (patEntry inp e.musicPattern 0) (reloadMusic (playEntries inp e)))

/-- MUSIC_TICK (42_tick_scheduler.md R157, R158). -/
def musicTick (inp : Inputs) (e : Engine) : Engine :=
  if e.musicPlaying then
    if e.musicTickTimer - 1 = 0 then dispatch inp { e with musicTickTimer := e.musicTickTimer - 1 }
    else { e with musicTickTimer := e.musicTickTimer - 1 }
  else e

/-- CHANNEL_TICK of the four channels. Each touches its own channel only, so the ascending order of
42_tick_scheduler.md R156 cannot be seen (R179). -/
def channelTicks (inp : Inputs) (e : Engine) : Engine :=
  { e with ch := ⟨channelTick inp e.ch.c0, channelTick inp e.ch.c1, channelTick inp e.ch.c2,
                  channelTick inp e.ch.c3⟩ }

/-- TICK: the music scheduler, then the channels (42_tick_scheduler.md R156). -/
def tick (inp : Inputs) (e : Engine) : Engine := channelTicks inp (musicTick inp e)

/-! ### The instructions, run alone (log 13, log 15) -/

/-- The instruction PAT.PLAY, in the entry of channel `work.chan`. -/
def execPatPlay (n : BitVec 6) (s : State) : Host.Outcome State Fault Refusal :=
  let d := patPlay s.inp s.work.chan n ⟨s.eng, s.work.minSpeed⟩
  .next { s with eng := d.eng, work := { s.work with minSpeed := d.m } }

/-- The instruction PAT.SILENT. -/
def execPatSilent (s : State) : Host.Outcome State Fault Refusal :=
  let d := patSilent ⟨s.eng, s.work.minSpeed⟩
  .next { s with eng := d.eng, work := { s.work with minSpeed := d.m } }

/-- The instruction PAT.LOOPSTART. -/
def execPatLoopStart (s : State) : Host.Outcome State Fault Refusal := .next (s.withEngine (patLoopStart s.eng))

/-- The instruction PAT.LOOPBACK. -/
def execPatLoopBack (s : State) : Host.Outcome State Fault Refusal := .next (s.withEngine (patLoopBack s.eng))

/-- The instruction PAT.STOP. -/
def execPatStop (s : State) : Host.Outcome State Fault Refusal := .next (s.withEngine (patStop s.eng))

/-- The instruction PAT.NEXT. -/
def execPatNext (s : State) : Host.Outcome State Fault Refusal := .next (s.withEngine (patNext s.eng))

end Sys2Proof.Machine
end

