-- ==== Sys2Proof/Machine/Waves.lean ====
section
/-! DEFINITION. The oscillator bank (40_oscillator_bank.md): the waveform functions, the noise generator,
the phase accumulator and OSC_STEP. -/

namespace Sys2Proof.Machine

/-! ### Functions of the phase -/

/-- `tri(t) = 1 − |4t − 2|` (40_oscillator_bank.md R115). -/
def triValue (n : Numerics) (t : F) : F := fsub n 1 (absF (fsub n (fmul n 4 t) 2))

/-- `tilt(t)`, the triangle with its peak at a = 7/8 (40_oscillator_bank.md R116). -/
def tiltValue (n : Numerics) (t : F) : F :=
  let a := rnd n (7 / 8)
  if t < a then fsub n (fdiv n (fmul n 2 t) a) 1
  else fsub n 1 (fdiv n (fmul n 2 (fsub n t a)) (fsub n 1 a))

/-- `saw(t) = 2t − 1`, below 1 in every carrier (40_oscillator_bank.md R117). -/
def sawValue (n : Numerics) (t : F) : F := below 1 (fsub n (fmul n 2 t) 1) (2 * t - 1)

/-- `sq(t)` (40_oscillator_bank.md R118). -/
def squareValue (n : Numerics) (t : F) : F := if t < rnd n (1 / 2) then 1 else -1

/-- `pulse(t)` (40_oscillator_bank.md R119). -/
def pulseValue (n : Numerics) (t : F) : F := if t < rnd n (1 / 4) then 1 else -1

/-- `organ(t) = tri(t) + (1/2) × tri(frac(2t))`, in `[−3/2, 1/2]` in every carrier: where the roundings
would leave it, the exact value (40_oscillator_bank.md R120, R128). -/
def organValue (n : Numerics) (t : F) : F :=
  let v := fadd n (triValue n t) (fmul n (rnd n (1 / 2)) (triValue n (frac n (fmul n 2 t))))
  if -(3 / 2) ≤ v ∧ v ≤ 1 / 2 then v
  else 1 - absF (4 * t - 2) + 1 / 2 * (1 - absF (4 * (2 * t - ((2 * t).floor : F)) - 2))

/-! ### Phase and noise -/

/-- LFSR_STEP: tap bits 0 and 1, shift right, tap into bit 14 (40_oscillator_bank.md R123). -/
def lfsrStep (l : Lfsr) : Lfsr := (l >>> 1) ||| (((l &&& 1#15) ^^^ ((l >>> 1) &&& 1#15)) <<< 14)

/-- The latched sample of a register value: +1 when bit 0 is 1 (40_oscillator_bank.md R125). -/
def latchOf (l : Lfsr) : F := if l.getLsbD 0 then 1 else -1

/-- The phase before the wrap, `phi + inc`, below 2 in every carrier (40_oscillator_bank.md R113). -/
def phaseSum (cfg : Config) (pitch : F) (cs : ChannelState) : F :=
  below 2 (fadd cfg.numerics cs.phi (phaseInc cfg pitch)) (cs.phi + phaseInc cfg pitch)

/-- The phase accumulator step (40_oscillator_bank.md R113). -/
def phaseAdvance (cfg : Config) (pitch : F) (cs : ChannelState) : ChannelState :=
  let p := phaseSum cfg pitch cs
  { cs with phi := if 1 ≤ p then frac cfg.numerics p else p }

/-- The noise clock and latch, when the phase step wraps (40_oscillator_bank.md R124, R125). -/
def noiseClock (cfg : Config) (pitch : F) (cs : ChannelState) : ChannelState :=
  if 1 ≤ phaseSum cfg pitch cs then
    { cs with lfsr := lfsrStep cs.lfsr, noiseSample := latchOf (lfsrStep cs.lfsr) }
  else cs

/-! ### The eight generators -/

/-- What a generator yields: the raw sample, and the ChannelState after it (40_oscillator_bank.md R126). -/
structure Sampled where
  cs  : ChannelState
  osc : F
deriving DecidableEq, Repr

/-- WAVE.TRI (40_oscillator_bank.md R115). -/
def waveTri (n : Numerics) (cs : ChannelState) : Sampled := ⟨cs, triValue n cs.phi⟩

/-- WAVE.TILT (40_oscillator_bank.md R116). -/
def waveTilt (n : Numerics) (cs : ChannelState) : Sampled := ⟨cs, tiltValue n cs.phi⟩

/-- WAVE.SAW (40_oscillator_bank.md R117). -/
def waveSaw (n : Numerics) (cs : ChannelState) : Sampled := ⟨cs, sawValue n cs.phi⟩

/-- WAVE.SQUARE (40_oscillator_bank.md R118). -/
def waveSquare (n : Numerics) (cs : ChannelState) : Sampled := ⟨cs, squareValue n cs.phi⟩

/-- WAVE.PULSE (40_oscillator_bank.md R119). -/
def wavePulse (n : Numerics) (cs : ChannelState) : Sampled := ⟨cs, pulseValue n cs.phi⟩

/-- WAVE.ORGAN (40_oscillator_bank.md R120). -/
def waveOrgan (n : Numerics) (cs : ChannelState) : Sampled := ⟨cs, organValue n cs.phi⟩

/-- WAVE.PHASER, the free function of the phase (40_oscillator_bank.md R121; log 5). -/
def wavePhaser (cfg : Config) (cs : ChannelState) : Sampled := ⟨cs, Config.freePhaser cfg.phaserIndex cs.phi⟩

/-- WAVE.NOISE: the sample latched before this one's own clock; the clock when the phase step of this
sample wraps (40_oscillator_bank.md R122, R124). -/
def waveNoise (cfg : Config) (pitch : F) (cs : ChannelState) : Sampled :=
  ⟨noiseClock cfg pitch cs, cs.noiseSample⟩

/-- The generator of a name (40_oscillator_bank.md R114). -/
def waveSample (cfg : Config) (name : Waveform) (pitch : F) (cs : ChannelState) : Sampled :=
  match name with
  | .tri => waveTri cfg.numerics cs
  | .tilt => waveTilt cfg.numerics cs
  | .saw => waveSaw cfg.numerics cs
  | .square => waveSquare cfg.numerics cs
  | .pulse => wavePulse cfg.numerics cs
  | .organ => waveOrgan cfg.numerics cs
  | .phaser => wavePhaser cfg cs
  | .noise => waveNoise cfg pitch cs

/-- OSC_STEP: sample at the stored phase, then advance it (40_oscillator_bank.md R126). -/
def oscStep (cfg : Config) (name : Waveform) (pitch : F) (cs : ChannelState) : Sampled :=
  let r := waveSample cfg name pitch cs
  ⟨phaseAdvance cfg pitch r.cs, r.osc⟩

/-! ### The instructions, run alone on the channel of `work.chan` (log 13, log 14) -/

/-- Leave a generator's sample in `work` and its ChannelState in the channel. -/
def State.putSampled (s : State) (r : Sampled) : State :=
  { s.putCs r.cs with work := { s.work with osc := r.osc } }

/-- The instruction WAVE.TRI. -/
def execWaveTri (s : State) : Host.Outcome State Fault Refusal :=
  .next (s.putSampled (waveTri s.cfg.numerics s.curChan.cs))

/-- The instruction WAVE.TILT. -/
def execWaveTilt (s : State) : Host.Outcome State Fault Refusal :=
  .next (s.putSampled (waveTilt s.cfg.numerics s.curChan.cs))

/-- The instruction WAVE.SAW. -/
def execWaveSaw (s : State) : Host.Outcome State Fault Refusal :=
  .next (s.putSampled (waveSaw s.cfg.numerics s.curChan.cs))

/-- The instruction WAVE.SQUARE. -/
def execWaveSquare (s : State) : Host.Outcome State Fault Refusal :=
  .next (s.putSampled (waveSquare s.cfg.numerics s.curChan.cs))

/-- The instruction WAVE.PULSE. -/
def execWavePulse (s : State) : Host.Outcome State Fault Refusal :=
  .next (s.putSampled (wavePulse s.cfg.numerics s.curChan.cs))

/-- The instruction WAVE.ORGAN. -/
def execWaveOrgan (s : State) : Host.Outcome State Fault Refusal :=
  .next (s.putSampled (waveOrgan s.cfg.numerics s.curChan.cs))

/-- The instruction WAVE.PHASER. -/
def execWavePhaser (s : State) : Host.Outcome State Fault Refusal :=
  .next (s.putSampled (wavePhaser s.cfg s.curChan.cs))

/-- The instruction WAVE.NOISE, at the pitch an effect has left in `work`. -/
def execWaveNoise (s : State) : Host.Outcome State Fault Refusal :=
  .next (s.putSampled (waveNoise s.cfg s.work.pitch s.curChan.cs))

end Sys2Proof.Machine
end

