-- ==== Sys2Proof/Machine/Mixer.lean ====
section
/-! DEFINITION. The sample mixer and output stage, and one SAMPLE (45_sample_mixer_output.md). -/

namespace Sys2Proof.Machine

/-- BUS(c) (45_sample_mixer_output.md R219). -/
def busGain (n : Numerics) (inp : Inputs) (isMusic : Bool) : F :=
  if isMusic then fdiv n (fmul n (rnd n (3 / 5)) (boundVol inp.volMusic : F)) 10
  else fdiv n (boundVol inp.volSfx : F) 10

/-- What RENDER leaves: the channel, and its contribution to the mix. -/
structure Rendered where
  ch  : Channel
  out : F
deriving DecidableEq, Repr

/-- The generator of the rendered row (45_sample_mixer_output.md R217). -/
def renderWave (cfg : Config) (inp : Inputs) (cs : ChannelState) : Waveform :=
  waveOfCode cfg.waveMap (rowWave (renderByte1 inp cs))

/-- RENDER(c) (45_sample_mixer_output.md R228). -/
def renderChannel (cfg : Config) (inp : Inputs) (ch : Channel) : Rendered :=
  if Renders ch.cs then
    let r := resolve cfg ch
    let o := oscStep cfg (renderWave cfg inp ch.cs) r.pitch r.cs
    ⟨{ ch with cs := o.cs },
      fmul cfg.numerics (fmul cfg.numerics o.osc (fdiv cfg.numerics r.vol 7))
        (busGain cfg.numerics inp ch.isMusic)⟩
  else ⟨ch, 0⟩

/-- The hardware distortion (45_sample_mixer_output.md R221). -/
def distorted (cfg : Config) (mix : F) : F :=
  fdiv cfg.numerics ((quot (trunc (fmul cfg.numerics mix (cfg.pcmScale : F))) 4096 * 4681 : Int) : F)
    (cfg.pcmScale : F)

/-- OUTPUT: distortion when set, gain 1/2, clamp, conversion (45_sample_mixer_output.md R221 to R225). -/
def output (cfg : Config) (distort : Bool) (mix : F) : Int :=
  let m := if distort then distorted cfg mix else mix
  trunc (fmul cfg.numerics (clamp (fmul cfg.numerics m (rnd cfg.numerics (1 / 2))) (-1) 1)
    (cfg.pcmScale : F))

/-- The tick that may precede the sample, and the tick accumulator (42_tick_scheduler.md R155). -/
def tickPart (cfg : Config) (inp : Inputs) (e : Engine) : Engine :=
  { (if e.tickAcc = 0 then tick inp e else e) with tickAcc := (e.tickAcc + 1) % cfg.samplesPerTick }

/-- What one sample leaves: the engine, and the PCM value. -/
structure Produced where
  eng : Engine
  pcm : Int
deriving DecidableEq, Repr

/-- The four renders in ascending order and the output stage (45_sample_mixer_output.md R220, R227). -/
def renderPart (cfg : Config) (inp : Inputs) (e : Engine) : Produced :=
  let r0 := renderChannel cfg inp e.ch.c0
  let r1 := renderChannel cfg inp e.ch.c1
  let r2 := renderChannel cfg inp e.ch.c2
  let r3 := renderChannel cfg inp e.ch.c3
  ⟨{ e with ch := ⟨r0.ch, r1.ch, r2.ch, r3.ch⟩ },
    output cfg inp.distort (fadd cfg.numerics (fadd cfg.numerics (fadd cfg.numerics
      (fadd cfg.numerics 0 r0.out) r1.out) r2.out) r3.out)⟩

/-- SAMPLE on the engine state (45_sample_mixer_output.md R227). Outside WF a cursor may address nothing:
then it stops before anything is done (log 16). -/
def sampleEngine (cfg : Config) (inp : Inputs) (e : Engine) : Host.Outcome Produced Fault Refusal :=
  if Muted inp then .next ⟨e, 0⟩
  else if CursorsOk e then .next (renderPart cfg inp (tickPart cfg inp e))
  else .refused .cursorOutsideMemory

/-- What a block of samples leaves: the engine, and the samples in production order. -/
structure Block where
  eng : Engine
  pcm : List Int
deriving DecidableEq, Repr

/-- GENERATE on the engine state (47_host_operations.md R250). -/
def generateEngine (cfg : Config) (inp : Inputs) : Nat → Engine → Host.Outcome Block Fault Refusal
  | 0, e => .next ⟨e, []⟩
  | k + 1, e =>
    match sampleEngine cfg inp e with
    | .next p =>
      match generateEngine cfg inp k p.eng with
      | .next b => .next ⟨b.eng, p.pcm :: b.pcm⟩
      | .fault f => .fault f
      | .refused r => .refused r
    | .fault f => .fault f
    | .refused r => .refused r

end Sys2Proof.Machine
end

