-- ==== Sys2Proof/Machine/HostOps.lean ====
section
/-! DEFINITION. The nine host operations (30_encoding.md R91, 47_host_operations.md R260). -/

namespace Sys2Proof.Machine

/-- RESET: every field of S (70_reset_and_hazards.md R285). -/
def execReset (s : State) : Host.Outcome State Fault Refusal :=
  .next ((s.withEngine Engine.reset).withResult .none)

/-- The least channel that satisfies `p`. -/
def firstChannel (p : Channel → Bool) (b : Bank) : Option ChanId :=
  if p b.c0 then some 0 else if p b.c1 then some 1 else if p b.c2 then some 2
  else if p b.c3 then some 3 else none

/-- SELECT: the given channel, else the first Idle, else the first non-music, else 3
(43_direct_trigger.md R186). -/
def selectChannel (chan : Option Int) (b : Bank) : ChanId :=
  match namedChannel chan with
  | some c => c
  | none =>
    match firstChannel (fun ch => decide (Idle ch.cs)) b with
    | some c => c
    | none =>
      match firstChannel (fun ch => !ch.isMusic) b with
      | some c => c
      | none => 3

/-- TRIGGER (43_direct_trigger.md R185); `n` or `r0` outside its range is refused (30_encoding.md R92). -/
def execTrigger (n : Int) (chan r0 : Option Int) (s : State) : Host.Outcome State Fault Refusal :=
  if TriggerDomain n r0 then
    let t := selectChannel chan s.eng.ch
    .next ((s.withEngine
      (s.eng.setChan t (triggeredChannel s.inp n.toNat (r0.getD 0).toNat false))).withResult (.channel t))
  else .refused (.operandOutsideDomain "TRIGGER")

/-- MUSIC_START (47_host_operations.md R256). -/
def execMusicStart (p mask : Int) (s : State) : Host.Outcome State Fault Refusal :=
  if MusicStartDomain p mask then
    .next ((s.withEngine
      { s.eng with
        musicPattern := p.toNat, musicLoopStart := 0, musicSpeed := 1, musicTickTimer := 1,
        musicMask := mask.toNat, musicPlaying := true }).withResult .none)
  else .refused (.operandOutsideDomain "MUSIC_START")

/-- MUSIC_STOP (47_host_operations.md R257). -/
def execMusicStop (s : State) : Host.Outcome State Fault Refusal :=
  .next ((s.withEngine { s.eng with musicPlaying := false }).withResult .none)

/-- SAMPLE (45_sample_mixer_output.md R227). -/
def execSample (s : State) : Host.Outcome State Fault Refusal :=
  match sampleEngine s.cfg s.inp s.eng with
  | .next p => .next ((s.withEngine p.eng).withResult (.pcm p.pcm))
  | .fault f => .fault f
  | .refused r => .refused r

/-- GENERATE (47_host_operations.md R250). -/
def execGenerate (count : Int) (s : State) : Host.Outcome State Fault Refusal :=
  if GenerateDomain count then
    match generateEngine s.cfg s.inp count.toNat s.eng with
    | .next b => .next ((s.withEngine b.eng).withResult (.samples b.pcm))
    | .fault f => .fault f
    | .refused r => .refused r
  else .refused (.operandOutsideDomain "GENERATE")

/-- The pull accumulator after one frame's demand is added, an exact rational whatever the carrier
(47_host_operations.md R253). -/
def pullDemand (cfg : Config) (e : Engine) : F := e.pullAcc + (cfg.nativeRate : F) / 60

/-- The capped length of an UPDATE's block (47_host_operations.md R254); below 0 only for a negative
`pull_acc`, outside WF (10_state.md R48; log 19). -/
def pullCount (cfg : Config) (e : Engine) : Int :=
  if (pullDemand cfg e).floor ≤ (cfg.pullCap : Int) then (pullDemand cfg e).floor else (cfg.pullCap : Int)

/-- UPDATE: demand, cap, GENERATE, HOST_SINK (47_host_operations.md R252). A negative demand, possible only
with a negative `pull_acc` outside WF, gives GENERATE a count that it refuses (30_encoding.md R92; log 19). -/
def execUpdate (s : State) : Host.Outcome State Fault Refusal :=
  let n := pullCount s.cfg s.eng
  if GenerateDomain n then
    match generateEngine s.cfg s.inp n.toNat { s.eng with pullAcc := pullDemand s.cfg s.eng - (n : F) } with
    | .next b => .next (((s.withEngine b.eng).deliver b.pcm).withResult (.samples b.pcm))
    | .fault f => .fault f
    | .refused r => .refused r
  else .refused (.operandOutsideDomain "GENERATE")

/-- GETSTATE (46_snapshot.md R241). -/
def execGetState (s : State) : Host.Outcome State Fault Refusal :=
  .next (s.withResult (.snapshot s.eng.toSnapshot))

/-- SETSTATE: every field of S but `pull_acc`; an ill-formed snapshot is refused (46_snapshot.md R242,
R243). -/
def execSetState (x : Snapshot) (s : State) : Host.Outcome State Fault Refusal :=
  if snapshotOk s.cfg x then
    .next ((s.withEngine { s.eng with toSnapshot := x }).withResult .none)
  else .refused .snapshotNotWellFormed

end Sys2Proof.Machine
end

