-- ==== Sys2Proof/Machine/Dispatch.lean ====
section
/-! DEFINITION. exec: one arm per constructor of Instr, each one direct call of its meaning. -/

namespace Sys2Proof.Machine

def exec (i : Instr) (s : State) : Host.Outcome State Fault Refusal :=
  match i with
  | .effNone => Sys2Proof.Machine.execEffNone s
  | .effSlide => Sys2Proof.Machine.execEffSlide s
  | .effVibrato => Sys2Proof.Machine.execEffVibrato s
  | .effDrop => Sys2Proof.Machine.execEffDrop s
  | .effFadeIn => Sys2Proof.Machine.execEffFadeIn s
  | .effFadeOut => Sys2Proof.Machine.execEffFadeOut s
  | .effRsv6 => Sys2Proof.Machine.execEffRsv6 s
  | .effRsv7 => Sys2Proof.Machine.execEffRsv7 s
  | .waveTri => Sys2Proof.Machine.execWaveTri s
  | .waveTilt => Sys2Proof.Machine.execWaveTilt s
  | .waveSaw => Sys2Proof.Machine.execWaveSaw s
  | .waveSquare => Sys2Proof.Machine.execWaveSquare s
  | .wavePulse => Sys2Proof.Machine.execWavePulse s
  | .waveOrgan => Sys2Proof.Machine.execWaveOrgan s
  | .wavePhaser => Sys2Proof.Machine.execWavePhaser s
  | .waveNoise => Sys2Proof.Machine.execWaveNoise s
  | .patPlay n => Sys2Proof.Machine.execPatPlay n s
  | .patSilent => Sys2Proof.Machine.execPatSilent s
  | .patLoopStart => Sys2Proof.Machine.execPatLoopStart s
  | .patLoopBack => Sys2Proof.Machine.execPatLoopBack s
  | .patStop => Sys2Proof.Machine.execPatStop s
  | .patNext => Sys2Proof.Machine.execPatNext s
  | .note key eff vol wave => Sys2Proof.Machine.execNote key eff vol wave s
  | .hdr speed loopStart loopEnd => Sys2Proof.Machine.execHdr speed loopStart loopEnd s
  | .reset => Sys2Proof.Machine.execReset s
  | .trigger n chan r0 => Sys2Proof.Machine.execTrigger n chan r0 s
  | .musicStart p mask => Sys2Proof.Machine.execMusicStart p mask s
  | .musicStop => Sys2Proof.Machine.execMusicStop s
  | .sample => Sys2Proof.Machine.execSample s
  | .generate count => Sys2Proof.Machine.execGenerate count s
  | .update => Sys2Proof.Machine.execUpdate s
  | .getState => Sys2Proof.Machine.execGetState s
  | .setState x => Sys2Proof.Machine.execSetState x s

end Sys2Proof.Machine
end

