-- ==== Sys2Proof/Machine/Fetch.lean ====
section
/-! DEFINITION. The VM's acts between operations, and how an instruction of the memories is placed where
the next step executes it. -/

namespace Sys2Proof.Machine

/-- The VM writes a byte of instrument memory (20_memory.md R71; log 17). -/
def vmPokeInstr (a : Nat) (b : Byte) (s : State) : Host.Outcome State Fault Refusal :=
  if a < Config.instrBytes then .next { s with inp := { s.inp with instr := Memory.write s.inp.instr a b } }
  else .refused (.vmWriteOutsideMemory a)

/-- The VM writes a byte of pattern memory (20_memory.md R71; log 17). -/
def vmPokePat (a : Nat) (b : Byte) (s : State) : Host.Outcome State Fault Refusal :=
  if a < Config.patBytes then .next { s with inp := { s.inp with pat := Memory.write s.inp.pat a b } }
  else .refused (.vmWriteOutsideMemory a)

/-- The VM presents a music master volume (10_state.md R49). -/
def vmSetVolMusic (v : Int) (s : State) : State := { s with inp := { s.inp with volMusic := v } }

/-- The VM presents an SFX master volume (10_state.md R50). -/
def vmSetVolSfx (v : Int) (s : State) : State := { s with inp := { s.inp with volSfx := v } }

/-- The VM presents the mute flag (10_state.md R51). -/
def vmSetMute (v : Bool) (s : State) : State := { s with inp := { s.inp with mute := v } }

/-- The VM presents the distortion flag (10_state.md R52). -/
def vmSetDistort (v : Bool) (s : State) : State := { s with inp := { s.inp with distort := v } }

/-- Write consecutive bytes of a memory. -/
def writeBytes (m : Memory) (a : Nat) : List Byte → Memory
  | [] => m
  | b :: bs => writeBytes (Memory.write m a b) (a + 1) bs

/-- The `k` bytes of a word, least significant first (spec/opcode_table.json's numbering). -/
def wordBytes : Nat → Nat → List Byte
  | 0, _ => []
  | k + 1, w => BitVec.ofNat 8 w :: wordBytes k (w / 2 ^ 8)

/-- Inputs under which a sample is not muted (45_sample_mixer_output.md R226). -/
def unmuted (inp : Inputs) : Inputs := { inp with mute := false, volSfx := 10 }

/-- A channel Active on row 0 of slot 0 whose counter expires at the next tick (43_direct_trigger.md R187). -/
def aboutToFire (ch : Channel) : Channel :=
  { ch with cs := { ch.cs with sfxId := 0, row := 0, lastNoteIdx := -1, tickCounter := 1 } }

/-- Place what a unit fetches, and the request whose execution fetches it (log 12). -/
def placeFetch (f : Fetch) (nbits w : Nat) (s : State) : State :=
  match f with
  | .row _ _ | .effectBits _ _ | .waveBits _ =>
    { s with
      inp := { unmuted s.inp with instr := writeBytes s.inp.instr (rowOffset 0 0) (wordBytes 2 w) }
      eng := { s.eng.setChan 0 (aboutToFire (s.eng.chan 0)) with tickAcc := 0, musicPlaying := false }
      queue := [.call ⟨4, [], none⟩] }
  | .entry _ | .entryMark _ | .entryAdvance _ _ =>
    { s with
      inp := { unmuted s.inp with
        pat := writeBytes s.inp.pat (entryOffset s.eng.musicPattern 0)
          (wordBytes 1 w ++ [0x40#8, 0x40#8, 0x40#8]) }
      eng := { s.eng with tickAcc := 0, musicPlaying := true, musicTickTimer := 1 }
      queue := [.call ⟨4, [], none⟩] }
  | .header b65 b66 b67 =>
    { s with
      inp := { s.inp with
        instr := if nbits = 544 then writeBytes s.inp.instr 0 (wordBytes 68 w)
                 else writeBytes s.inp.instr (headerOffset 0 65) [b65, b66, b67] }
      queue := [.call ⟨1, [some 0, some 0, none], none⟩] }
  | .call h => { s with queue := [.call h] }

end Sys2Proof.Machine
end

