-- ==== Sys2Proof/Machine/Step.lean ====
section
/-! DEFINITION. One step of the machine: the VM's next request is taken from the queue. -/

namespace Sys2Proof.Machine

/-- One step. With no request waiting the block does nothing (70_reset_and_hazards.md R286); else the
oldest request is taken: an operation is decoded and executed whole (00_scope.md R15), or an act of the
VM between operations is applied (R16). -/
def step (s : State) : Host.Outcome State Fault Refusal :=
  match s.queue with
  | [] => .next s
  | .call h :: rest =>
    match decode s.cfg.waveMap (.call h) with
    | .ok i => exec i { s with queue := rest }
    | .error e => .refused (.undecodable e)
  | .pokeInstr a b :: rest => vmPokeInstr a b { s with queue := rest }
  | .pokePat a b :: rest => vmPokePat a b { s with queue := rest }
  | .setVolMusic v :: rest => .next (vmSetVolMusic v { s with queue := rest })
  | .setVolSfx v :: rest => .next (vmSetVolSfx v { s with queue := rest })
  | .setMute v :: rest => .next (vmSetMute v { s with queue := rest })
  | .setDistort v :: rest => .next (vmSetDistort v { s with queue := rest })

/-- `s` with the instruction of `nbits` bits `w` placed where the next step fetches it (log 12): a pattern
byte as entry 0 of the pattern the next dispatch reads; a note row under the cursor of channel 0; a header
in slot 0, with the operation that executes it as the only request. -/
def State.withFetchWord (s : State) (nbits w : Nat) : State :=
  match tableFetch nbits w with
  | none => s
  | some f => placeFetch f nbits w s

end Sys2Proof.Machine
end

