-- ==== Sys2Proof/Safety.lean ====
section
/-! DEFINITION. What a safe machine is: the predicate WF of 10_state.md R55 on the whole state S, and with
it the domains of the configuration (00_scope.md R7) and the canonical form of the memories. -/

namespace Sys2Proof.Machine

/-- WF on S (10_state.md R55): the snapshot's fields and `0 ≤ pull_acc`. -/
abbrev EngineWF (cfg : Config) (e : Engine) : Prop := SnapshotWF cfg e.toSnapshot ∧ 0 ≤ e.pullAcc

/-- Both memories are in canonical form, every address inside its space (20_memory.md R61, R62). -/
abbrev MemoriesWF (inp : Inputs) : Prop :=
  Memory.wf Config.instrBytes inp.instr = true ∧ Memory.wf Config.patBytes inp.pat = true

/-- WF on the whole-number fields of a channel and of its child. -/
abbrev ChannelControlWF (ch : Channel) : Prop := ControlWF ch.cs ∧ ControlWF ch.child

/-- WF on the whole-number fields of S and `0 ≤ pull_acc`: the part of 10_state.md R55 that the schedulers
and the addresses rest on. -/
abbrev EngineControlWF (cfg : Config) (e : Engine) : Prop :=
  ((∀ c : ChanId, ChannelControlWF (bankGet e.ch c)) ∧ ScalarsWF cfg e.toSnapshot) ∧ 0 ≤ e.pullAcc

/-- The part of the invariant that makes every operation complete: no float field enters it. -/
abbrev ControlInv (s : State) : Prop := s.cfg.WF ∧ EngineControlWF s.cfg s.eng ∧ MemoriesWF s.inp

/-- The invariant of every instance, whatever its carrier: WF on all of S (10_state.md R55). -/
abbrev MachineInv (s : State) : Prop := s.cfg.WF ∧ EngineWF s.cfg s.eng ∧ MemoriesWF s.inp

/-- The outcome is a next state. -/
def Completes (o : Host.Outcome State Fault Refusal) : Prop := ∃ t, o = .next t

end Sys2Proof.Machine
end

