-- ==== Sys2Proof/Certificates/Slice0/Obligations.lean ====
section
/-! DEFINITION. The statements for the provers, each from the numbered rules of spec/ (titles, rules and
quotes in OBLIGATIONS.json). Helper definitions stand under Sys2Proof.Claims. -/

namespace Sys2Proof.Claims

open Sys2Proof.Machine

/-- The value of header byte `k` of slot `n` (20_memory.md R61). -/
def slotByte (inp : Inputs) (n k : Nat) : Nat := (Memory.read inp.instr (68 * n + k)).toNat

/-- The channel a trigger of slot `n` from row `r0` leaves, field by field (43_direct_trigger.md R187). -/
def triggered (inp : Inputs) (n r0 : Nat) (music : Bool) : Channel :=
  { cs :=
      { sfxId := n, lfsr := 0x5205#15, phi := 0, noiseSample := 1, currentVol := 0, currentPitchVal := 0,
        slideStartPitch := 0, vibPhase := 0, row := r0, lastNoteIdx := -1, tickCounter := 1,
        speed := max (slotByte inp n 65) 1, loopStart := slotByte inp n 66, loopEnd := slotByte inp n 67,
        loopActive := decide (slotByte inp n 67 > slotByte inp n 66) }
    child :=
      { sfxId := -1, lfsr := 0x5205#15, phi := 0, noiseSample := 1, currentVol := 0, currentPitchVal := 0,
        slideStartPitch := 0, vibPhase := 0, row := 0, lastNoteIdx := -1, tickCounter := 1, speed := 1,
        loopStart := 0, loopEnd := 0, loopActive := false }
    isMusic := music
    effect := .none }

/-- `s` with the pair an effect yields. -/
def withPair (s : State) (pitch vol : F) : State :=
  { s with work := { s.work with pitch := pitch, vol := vol } }

/-- `s` with the sample a generator yields. -/
def withOsc (s : State) (osc : F) : State := { s with work := { s.work with osc := osc } }

/-- The ChannelState of the channel an inner instruction works on. -/
def curCs (s : State) : ChannelState := (bankGet s.eng.ch s.work.chan).cs

/-- `s` with that channel replaced, every other channel and every scalar as before. -/
def withCurChan (s : State) (ch : Channel) : State :=
  { s with eng := { s.eng with ch := bankSet s.eng.ch s.work.chan ch } }

/-- The same outcome with the state changed by `f`. -/
def mapState (f : State → State) : Host.Outcome State Fault Refusal → Host.Outcome State Fault Refusal
  | .next t => .next (f t)
  | .fault x => .fault x
  | .refused r => .refused r

/-- `s` with another `pull_acc`. -/
def withPull (p : F) (s : State) : State := { s with eng := { s.eng with pullAcc := p } }

/-- `s` with another `music_mask`. -/
def withMask (m : Nat) (s : State) : State := { s with eng := { s.eng with musicMask := m } }

/-- `k` executions of one instruction in a row. -/
def times (i : Instr) : Nat → State → Host.Outcome State Fault Refusal
  | 0, s => .next s
  | k + 1, s =>
    match exec i s with
    | .next t => times i k t
    | .fault x => .fault x
    | .refused r => .refused r

/-- How many samples stand in a list of blocks. -/
def sampleCount (blocks : List (List Int)) : Nat := (blocks.map List.length).sum

/-- What the carrier of an instance makes of an exact result (00_scope.md R8): the result itself in the
reference carrier, else what the carrier rounds it to (log 1). -/
def carried (n : Numerics) (x : F) : F :=
  match n.carrier with
  | .exact => x
  | .rounding _ => rnd n x

/-- `progress` of a note in the operations of the instance's carrier, below 1 (44_effect_modulator.md R200):
the exact value where a rounding would reach 1 (log 1). -/
def noteProgress (n : Numerics) (cs : ChannelState) : F :=
  let v := carried n (1 - carried n ((cs.tickCounter : F) / (cs.speed : F)))
  if v < 1 then v else 1 - (cs.tickCounter : F) / (cs.speed : F)

/-- The phase increment at a pitch in the operations of the instance's carrier, strictly between 0 and 1
(40_oscillator_bank.md R112): the exact quotient where a rounding would reach either (log 1). -/
def increment (cfg : Config) (pitch : F) : F :=
  let v := carried cfg.numerics (freq cfg.numerics pitch / (cfg.nativeRate : F))
  if 0 < v ∧ v < 1 then v else freq cfg.numerics pitch / (cfg.nativeRate : F)

/-- `phi + inc` in the operations of the instance's carrier, below 2 (40_oscillator_bank.md R113): the exact
sum where a rounding would reach 2 (log 1). -/
def phaseTotal (cfg : Config) (pitch phi : F) : F :=
  let v := carried cfg.numerics (phi + increment cfg pitch)
  if v < 2 then v else phi + increment cfg pitch

/-- `x − ⌊x⌋` in the operations of the instance's carrier, below 1 (40_oscillator_bank.md R113, R120): the
exact value where a rounding would reach 1 (log 1). -/
def fractional (n : Numerics) (x : F) : F :=
  let v := carried n (x - (⌊x⌋ : Int))
  if v < 1 then v else x - (⌊x⌋ : Int)

/-- RENDER of a rendering channel from what its effect and its generator yield: the contribution. -/
def contribution (n : Numerics) (inp : Inputs) (music : Bool) (osc vol : F) : F :=
  let r := carried n
  r (r (osc * r (vol / 7)) *
    (if music then r (r (r (3 / 5) * ((max 0 (min 10 inp.volMusic) : Int) : F)) / 10)
     else r (((max 0 (min 10 inp.volSfx) : Int) : F) / 10)))

/-- A cursor that addresses nothing: the music cursor past pattern 63, or an Active channel whose slot lies
outside 0..63, whose row lies past 31, or whose rendered row lies outside −1..31 (20_memory.md R68). -/
def Strayed (e : Engine) : Prop :=
  63 < e.musicPattern ∨ ∃ c : ChanId,
    let cs := (bankGet e.ch c).cs
    cs.sfxId ≠ -1 ∧
      (cs.sfxId < 0 ∨ 63 < cs.sfxId ∨ 31 < cs.row ∨ cs.lastNoteIdx < -1 ∨ 31 < cs.lastNoteIdx)

/-- The speeds of the channels that pattern `p` triggers (42_tick_scheduler.md R162). -/
def dispatchedSpeeds (inp : Inputs) (p : Nat) : List Nat :=
  ([0, 1, 2, 3] : List ChanId).filterMap fun c =>
    let b := Memory.read inp.pat (4 * p + c.val)
    if b.getLsbD 6 then none else some (max (slotByte inp (b.toNat % 64) 65) 1)

end Sys2Proof.Claims

open Sys2Proof Sys2Proof.Machine Sys2Proof.Claims

/-! ### Steps, decoding and encoding -/

/-- The step takes the oldest request, decodes the operation and executes it on the state without that
request (log 10). -/
def Obligations.StepRunsDecodedCall : Prop :=
  ∀ (s : State) (h : HostCall) (rest : List Request) (i : Instr),
    s.queue = .call h :: rest → decode s.cfg.waveMap (.call h) = .ok i →
    step s = exec i { s with queue := rest }

/-- With no request waiting the step changes nothing (70_reset_and_hazards.md R286; log 10). -/
def Obligations.StepWithoutRequestIsIdle : Prop :=
  ∀ s : State, s.queue = [] → step s = .next s

/-- decode undoes encode on every well-formed instruction, for every configuration. -/
def Obligations.DecodeInvertsEncode : Prop :=
  ∀ (cfg : Config) (i : Instr), cfg.WF → i.WellFormed cfg →
    decode cfg.waveMap (encode cfg.waveMap i) = .ok i

/-- Every field of a note row is the bits 30_encoding.md R83 names, unsigned and unscaled. -/
def Obligations.NoteRowFieldsAreTheNamedBits : Prop :=
  ∀ (m : WaveMap) (b0 b1 : Byte), ∃ (key : BitVec 6) (eff vol wave : BitVec 3),
    decode m (.row b0 b1) = .ok (.note key eff vol wave) ∧
    key.toNat = b0.toNat % 64 ∧
    eff.toNat = b1.toNat % 4 + 4 * (b0.toNat / 64 % 2) ∧
    vol.toNat = b1.toNat / 4 % 8 ∧
    wave.toNat = b1.toNat / 32

/-- Words of the spec's own tables decode to the instructions they stand for (95_test_vectors.md §2.1), each
of the eight effect codes to its effect (30_encoding.md R89), and each of the eight waveform codes to its
own field of WAVE_MAP, the default map to the list order (R90). -/
def Obligations.SampleWordsDecode : Prop :=
  decode WaveMap.default (.row 0x18#8 0x74#8) = .ok (.note 24#6 0#3 5#3 3#3) ∧
  decode WaveMap.default (.row 0x58#8 0x1D#8) = .ok (.note 24#6 5#3 7#3 0#3) ∧
  (∀ m : WaveMap,
    decode m (.effectBits 0x18#8 0x74#8) = .ok .effNone ∧
    decode m (.effectBits 0x18#8 0x5D#8) = .ok .effSlide ∧
    decode m (.effectBits 0x00#8 0x02#8) = .ok .effVibrato ∧
    decode m (.effectBits 0x18#8 0x5F#8) = .ok .effDrop ∧
    decode m (.effectBits 0x58#8 0x1C#8) = .ok .effFadeIn ∧
    decode m (.effectBits 0x58#8 0x1D#8) = .ok .effFadeOut ∧
    decode m (.effectBits 0x40#8 0x02#8) = .ok .effRsv6 ∧
    decode m (.effectBits 0x40#8 0x03#8) = .ok .effRsv7 ∧
    decode m (.waveBits 0x1D#8) = .ok (waveInstr m.w0) ∧
    decode m (.waveBits 0x3F#8) = .ok (waveInstr m.w1) ∧
    decode m (.waveBits 0x5C#8) = .ok (waveInstr m.w2) ∧
    decode m (.waveBits 0x74#8) = .ok (waveInstr m.w3) ∧
    decode m (.waveBits 0x80#8) = .ok (waveInstr m.w4) ∧
    decode m (.waveBits 0xA0#8) = .ok (waveInstr m.w5) ∧
    decode m (.waveBits 0xC0#8) = .ok (waveInstr m.w6) ∧
    decode m (.waveBits 0xFC#8) = .ok (waveInstr m.w7)) ∧
  decode WaveMap.default (.waveBits 0x1D#8) = .ok .waveTri ∧
  decode WaveMap.default (.waveBits 0x3F#8) = .ok .waveTilt ∧
  decode WaveMap.default (.waveBits 0x5C#8) = .ok .waveSaw ∧
  decode WaveMap.default (.waveBits 0x74#8) = .ok .waveSquare ∧
  decode WaveMap.default (.waveBits 0x80#8) = .ok .wavePulse ∧
  decode WaveMap.default (.waveBits 0xA0#8) = .ok .waveOrgan ∧
  decode WaveMap.default (.waveBits 0xC0#8) = .ok .wavePhaser ∧
  decode WaveMap.default (.waveBits 0xFC#8) = .ok .waveNoise ∧
  decode WaveMap.default (.entry 0x85#8) = .ok (.patPlay 5#6) ∧
  decode WaveMap.default (.entry 0x7F#8) = .ok .patSilent ∧
  decode WaveMap.default (.entryMark 0x85#8) = .ok .patLoopStart ∧
  decode WaveMap.default (.entryAdvance 0x86#8 0xC0#8) = .ok .patLoopBack ∧
  decode WaveMap.default (.entryAdvance 0x40#8 0xC0#8) = .ok .patStop ∧
  decode WaveMap.default (.header 0x04#8 0x00#8 0x02#8) = .ok (.hdr 4#8 0#8 2#8)

/-- An operand outside its range is refused by name. 30_encoding.md R92 refuses the operation; that both the
decoder and the operation refuse it, and under these names, is the model's choice (log 11, log 19). -/
def Obligations.OperandsOutsideTheirRangesAreRefused : Prop :=
  ∀ s : State,
    (∀ (n : Int) (chan r0 : Option Int), (n < 0 ∨ 63 < n ∨ r0.getD 0 < 0 ∨ 31 < r0.getD 0) →
      exec (.trigger n chan r0) s = .refused (.operandOutsideDomain "TRIGGER") ∧
      decodeCall ⟨1, [some n, chan, r0], none⟩ = .error (.operandDomain "TRIGGER")) ∧
    (∀ p mask : Int, (p < 0 ∨ 63 < p ∨ mask < 0 ∨ 15 < mask) →
      exec (.musicStart p mask) s = .refused (.operandOutsideDomain "MUSIC_START") ∧
      decodeCall ⟨2, [some p, some mask], none⟩ = .error (.operandDomain "MUSIC_START")) ∧
    (∀ count : Int, count < 0 →
      exec (.generate count) s = .refused (.operandOutsideDomain "GENERATE") ∧
      decodeCall ⟨5, [some count], none⟩ = .error (.operandDomain "GENERATE"))

/-! ### Effects, run alone on the channel of `work.chan`, the pair left in `work` (log 13) -/

/-- EFF.NONE, EFF.RSV6 and EFF.RSV7 yield the latched pitch and volume and write nothing else. -/
def Obligations.NoneAndReservedEffectsPassThrough : Prop :=
  ∀ (s : State) (i : Instr), i = .effNone ∨ i = .effRsv6 ∨ i = .effRsv7 →
    exec i s = .next (withPair s (curCs s).currentPitchVal (curCs s).currentVol)

/-- EFF.SLIDE yields the pitch between origin and target at the note's progress; EFF.DROP the origin
scaled down; neither writes anything else. The operations are those of the instance's carrier (00_scope.md
R8; log 1). Speed 0 is outside WF (10_state.md R33). -/
def Obligations.SlideAndDropBendThePitch : Prop :=
  ∀ s : State, 1 ≤ (curCs s).speed →
    let r := carried s.cfg.numerics
    let cs := curCs s
    let prog := noteProgress s.cfg.numerics cs
    exec .effSlide s = .next (withPair s
      (r (cs.slideStartPitch + r (r (cs.currentPitchVal - cs.slideStartPitch) * prog))) cs.currentVol) ∧
    exec .effDrop s = .next (withPair s (r (cs.slideStartPitch * r (1 - prog))) cs.currentVol)

/-- EFF.FADE_IN and EFF.FADE_OUT scale the volume of this sample and write nothing else. The operations
are those of the instance's carrier (00_scope.md R8; log 1). Speed 0 is outside WF (10_state.md R33). -/
def Obligations.FadesScaleTheVolume : Prop :=
  ∀ s : State, 1 ≤ (curCs s).speed →
    let r := carried s.cfg.numerics
    let cs := curCs s
    let prog := noteProgress s.cfg.numerics cs
    exec .effFadeIn s = .next (withPair s cs.currentPitchVal (r (cs.currentVol * prog))) ∧
    exec .effFadeOut s = .next (withPair s cs.currentPitchVal (r (cs.currentVol * r (1 - prog))))

/-- EFF.VIBRATO uses the stored phase, then advances it by `2π·15/NATIVE_RATE` with one wrap: the spec's
own decision D22 (44_effect_modulator.md R203). SIN and TWO_PI are the instance's (log 3, log 4), and so
are the operations, held to the ranges of 00_scope.md R10 and 10_state.md R29 (log 1). -/
def Obligations.VibratoUsesThenAdvancesItsPhase : Prop :=
  ∀ s : State,
    let r := carried s.cfg.numerics
    let ch := bankGet s.eng.ch s.work.chan
    let period : F := twoPi s.cfg.numerics
    let hold : F → F → F → F := fun hi v x => if v < hi then v else x
    let inc := hold period (r (r (period * 15) / (s.cfg.nativeRate : F))) (period * 15 / (s.cfg.nativeRate : F))
    let ph := hold (2 * period) (r (ch.cs.vibPhase + inc)) (ch.cs.vibPhase + inc)
    let next : F := if ph ≥ period then hold period (r (ph - period)) (ph - period) else ph
    exec .effVibrato s =
      .next (withPair (withCurChan s { ch with cs := { ch.cs with vibPhase := next } })
        (r (ch.cs.currentPitchVal + r (sin s.cfg.numerics ch.cs.vibPhase * r (1 / 4)))) ch.cs.currentVol)

/-- For every well-formed channel of every instance the effects keep `0 ≤ vol ≤ 7` and
`−1/4 ≤ pitch ≤ 253/4`, without vibrato `0 ≤ pitch ≤ 63`, and the progress lies in [0, 1). -/
def Obligations.EffectsStayInRange : Prop :=
  ∀ (cfg : Config) (ch : Channel), ChannelStateWF cfg.numerics ch.cs →
    0 ≤ (resolve cfg ch).vol ∧ (resolve cfg ch).vol ≤ 7 ∧
    -(1 / 4) ≤ (resolve cfg ch).pitch ∧ (resolve cfg ch).pitch ≤ 253 / 4 ∧
    (ch.effect ≠ .vibrato → 0 ≤ (resolve cfg ch).pitch ∧ (resolve cfg ch).pitch ≤ 63) ∧
    0 ≤ progress cfg.numerics ch.cs ∧ progress cfg.numerics ch.cs < 1

/-! ### Oscillators, run alone on the channel of `work.chan`, the sample left in `work` (log 13) -/

/-- The seven generators that are functions of the phase yield the spec's formula at the stored phase
(the formulas are its decision D8, the phaser its open parameter D9) in the operations of the instance's
carrier, saw and organ held to the ranges of 40_oscillator_bank.md R128 (log 1), and write nothing else. -/
def Obligations.PhaseWaveformsYieldTheirShape : Prop :=
  ∀ s : State,
    let r := carried s.cfg.numerics
    let t := (curCs s).phi
    let tri : F → F := fun x => r (1 - |r (r (4 * x) - 2)|)
    let a := r (7 / 8)
    let u := r (2 * t)
    let organ := r (tri t + r (r (1 / 2) * tri (fractional s.cfg.numerics u)))
    exec .waveTri s = .next (withOsc s (tri t)) ∧
    exec .waveTilt s = .next (withOsc s (if t < a then r (r (u / a) - 1)
      else r (1 - r (r (2 * r (t - a)) / r (1 - a))))) ∧
    exec .waveSaw s = .next (withOsc s (if r (u - 1) < 1 then r (u - 1) else 2 * t - 1)) ∧
    exec .waveSquare s = .next (withOsc s (if t < r (1 / 2) then 1 else -1)) ∧
    exec .wavePulse s = .next (withOsc s (if t < r (1 / 4) then 1 else -1)) ∧
    exec .waveOrgan s = .next (withOsc s (if -(3 / 2) ≤ organ ∧ organ ≤ 1 / 2 then organ
      else 1 - |4 * t - 2| + 1 / 2 * (1 - |4 * Int.fract (2 * t) - 2|))) ∧
    exec .wavePhaser s = .next (withOsc s (Config.freePhaser s.cfg.phaserIndex t))

/-- WAVE.NOISE yields the latched sample; the register steps and the latch follows exactly when this
sample's phase step wraps (40_oscillator_bank.md R122, R124, R125; the split of OSC_STEP is log 14), in the
operations of the instance's carrier (log 1). -/
def Obligations.NoiseClocksOnlyOnAWrap : Prop :=
  ∀ s : State,
    let ch := bankGet s.eng.ch s.work.chan
    let wrapped : Prop := 1 ≤ phaseTotal s.cfg s.work.pitch ch.cs.phi
    (¬ wrapped → exec .waveNoise s = .next (withOsc s ch.cs.noiseSample)) ∧
    (wrapped → exec .waveNoise s = .next (withOsc
      (withCurChan s { ch with cs := { ch.cs with
        lfsr := lfsrStep ch.cs.lfsr
        noiseSample := if (lfsrStep ch.cs.lfsr).toNat % 2 = 1 then 1 else -1 } })
      ch.cs.noiseSample))

/-- Ranges of the raw samples over a cycle, on every carrier. -/
def Obligations.RawSamplesStayInRange : Prop :=
  ∀ (n : Numerics) (t : F), 0 ≤ t → t < 1 →
    (-1 ≤ triValue n t ∧ triValue n t ≤ 1) ∧
    (-1 ≤ tiltValue n t ∧ tiltValue n t ≤ 1) ∧
    (-1 ≤ sawValue n t ∧ sawValue n t < 1) ∧
    (squareValue n t = 1 ∨ squareValue n t = -1) ∧
    (pulseValue n t = 1 ∨ pulseValue n t = -1) ∧
    (-(3 / 2) ≤ organValue n t ∧ organValue n t ≤ 1 / 2)

/-- LFSR_STEP on the number the register holds: the tap is the exclusive or of bits 0 and 1, the rest
shifts right, the tap enters at bit 14. -/
def Obligations.LfsrStepShiftsTheTapIn : Prop :=
  ∀ l : Lfsr, (lfsrStep l).toNat = l.toNat / 2 + 16384 * ((l.toNat % 2 + l.toNat / 2 % 2) % 2)

/-- From 0x5205 the register returns to 0x5205 after exactly 32767 steps and never holds 0; 0 is a fixed
point. -/
def Obligations.LfsrPeriodIs32767 : Prop :=
  lfsrStep^[32767] 0x5205#15 = 0x5205#15 ∧
  (∀ k, 0 < k → k < 32767 → lfsrStep^[k] 0x5205#15 ≠ 0x5205#15) ∧
  (∀ k, lfsrStep^[k] 0x5205#15 ≠ 0#15) ∧
  lfsrStep 0#15 = 0#15

/-- FREQ of every instance is positive and at every pitch within the instance's stated tolerance of
`65.406 × 2^(pitch/12)`; at pitches 0 and 12 it is within 1/1000 Hz of 65.406 and 130.812; on the reference
carrier it is exact at every whole octave (log 2). -/
def Obligations.FrequencyFollowsEqualTemperament : Prop :=
  ∀ n : Numerics,
    (∀ p : F, 0 < freq n p) ∧
    (0 < n.freqTolerance → ∀ p : F,
      |((freq n p : ℚ) : ℝ) - 65.406 * (2 : ℝ) ^ (((p : ℚ) : ℝ) / 12)| ≤ (n.freqTolerance : ℝ)) ∧
    |freq n 0 - 65406 / 1000| ≤ 1 / 1000 ∧ |freq n 12 - 130812 / 1000| ≤ 1 / 1000 ∧
    (n.carrier = .exact → ∀ k : Int, freq n ((12 * k : Int) : F) = 65406 / 1000 * (2 : F) ^ k)

/-- In every well-formed channel of every instance, at the pitch its effect yields: FREQ is below
NATIVE_RATE; the phase increment is the quotient's carrier value, the exact quotient where a rounding would
leave the range, strictly between 0 and 1; the phase sum is in [0, 2), so that its floor is 0 or 1, one wrap is
all that can happen, and the phase after it is in [0, 1); the vibrato step is below one period. -/
def Obligations.PhaseIncrementIsBelowOne : Prop :=
  ∀ (cfg : Config) (ch : Channel), cfg.WF → ChannelStateWF cfg.numerics ch.cs →
    let pitch : F := (resolve cfg ch).pitch
    let p : F := phaseTotal cfg pitch ch.cs.phi
    let phi : F := (phaseAdvance cfg pitch ch.cs).phi
    freq cfg.numerics pitch < (cfg.nativeRate : F) ∧
    phaseInc cfg pitch = increment cfg pitch ∧ 0 < phaseInc cfg pitch ∧ phaseInc cfg pitch < 1 ∧
    phaseSum cfg pitch ch.cs = p ∧ 0 ≤ p ∧ p < 2 ∧ (⌊p⌋ = 0 ∨ ⌊p⌋ = 1) ∧
    phi = (if p ≥ 1 then fractional cfg.numerics p else p) ∧ 0 ≤ phi ∧ phi < 1 ∧
    0 ≤ vibInc cfg ∧ vibInc cfg < twoPi cfg.numerics

/-! ### Note rows, headers, channel scheduler -/

/-- NOTE on the channel of `work.chan` (log 13): volume, pitch, effect, rendered row, cursor, loop wrap
and deactivation, and nothing else; the wrap and the end follow the spec's own decision D17, the origin
D15, D16. -/
def Obligations.NoteLatchesTheRowAndMovesTheCursor : Prop :=
  ∀ (key : BitVec 6) (eff vol wave : BitVec 3) (s : State),
    let ch := bankGet s.eng.ch s.work.chan
    let keeps : Prop := vol.toNat ≠ 0 ∧ eff.toNat = 1
    let wraps : Prop := ch.cs.loopActive = true ∧ ch.cs.row + 1 ≥ ch.cs.loopEnd
    exec (.note key eff vol wave) s = .next (withCurChan s
      { ch with
        effect := effectOfCode eff
        cs := { ch.cs with
          currentVol := (vol.toNat : F)
          currentPitchVal := (key.toNat : F)
          slideStartPitch := if keeps then ch.cs.slideStartPitch else (key.toNat : F)
          lastNoteIdx := ch.cs.row
          row := if wraps then ch.cs.loopStart else ch.cs.row + 1
          sfxId := if wraps then ch.cs.sfxId else if ch.cs.row + 1 > 31 then -1 else ch.cs.sfxId } })

/-- A channel tick: an Idle channel is skipped, a running counter only counts down, and an expiring
counter reloads and runs the NOTE decoded from the two bytes under the cursor. -/
def Obligations.ChannelTickRunsTheRowUnderTheCursor : Prop :=
  ∀ (s : State),
    let ch := bankGet s.eng.ch s.work.chan
    (ch.cs.sfxId = -1 → channelTick s.inp ch = ch) ∧
    (ch.cs.sfxId ≠ -1 → 2 ≤ ch.cs.tickCounter →
      channelTick s.inp ch = { ch with cs := { ch.cs with tickCounter := ch.cs.tickCounter - 1 } }) ∧
    (ch.cs.sfxId ≠ -1 → ch.cs.tickCounter ≤ 1 →
      ∃ i t,
        decode s.cfg.waveMap (.row
          (Memory.read s.inp.instr (68 * ch.cs.sfxId.toNat + 2 * ch.cs.row))
          (Memory.read s.inp.instr (68 * ch.cs.sfxId.toNat + 2 * ch.cs.row + 1))) = .ok i ∧
        exec i (withCurChan s { ch with cs := { ch.cs with tickCounter := ch.cs.speed } }) = .next t ∧
        channelTick s.inp ch = bankGet t.eng.ch s.work.chan)

/-- An Active channel with well-formed whole-number fields whose loop is active and ends at row 32 or before stays Active and keeps
its loop over any number of ticks, whatever the memory holds at each. -/
def Obligations.LoopingChannelNeverGoesIdle : Prop :=
  ∀ (inputs : List Inputs) (ch : Channel),
    ControlWF ch.cs → ch.cs.sfxId ≠ -1 → ch.cs.loopActive = true → ch.cs.loopEnd ≤ 32 →
    let ch' := inputs.foldl (fun c inp => channelTick inp c) ch
    ControlWF ch'.cs ∧ ch'.cs.sfxId = ch.cs.sfxId ∧ ch'.cs.loopStart = ch.cs.loopStart ∧
      ch'.cs.loopEnd = ch.cs.loopEnd ∧ ch'.cs.loopActive = true

/-- HDR on the channel of `work.chan` latches speed, floored to 1, and the loop rows, and nothing else. -/
def Obligations.HeaderLatchesSpeedAndLoop : Prop :=
  ∀ (b65 b66 b67 : Byte) (s : State),
    let ch := bankGet s.eng.ch s.work.chan
    exec (.hdr b65 b66 b67) s = .next (withCurChan s
      { ch with cs := { ch.cs with
          speed := max b65.toNat 1
          loopStart := b66.toNat
          loopEnd := b67.toNat
          loopActive := decide (b67.toNat > b66.toNat) } })

/-! ### Pattern entries and the music scheduler -/

/-- PAT.PLAY triggers its slot on its own channel as music and keeps the least speed of the dispatch (the
spec's own decisions D13, D14; run alone, log 13). -/
def Obligations.PatPlayTriggersItsChannel : Prop :=
  ∀ (n : BitVec 6) (s : State),
    let sp := max (slotByte s.inp n.toNat 65) 1
    let t := withCurChan s (triggered s.inp n.toNat 0 true)
    exec (.patPlay n) s = .next
      { t with work := { t.work with minSpeed := some (match s.work.minSpeed with
                                                        | none => sp
                                                        | some m => min m sp) } }

/-- PAT.SILENT changes nothing at all. -/
def Obligations.PatSilentChangesNothing : Prop :=
  ∀ s : State, exec .patSilent s = .next s

/-- PAT.LOOPSTART records the pattern under dispatch; PAT.LOOPBACK moves the cursor to the record;
neither writes anything else. -/
def Obligations.PatLoopMarkersSetAndUseTheReturnPoint : Prop :=
  ∀ s : State,
    exec .patLoopStart s = .next { s with eng := { s.eng with musicLoopStart := s.eng.musicPattern } } ∧
    exec .patLoopBack s = .next { s with eng := { s.eng with musicPattern := s.eng.musicLoopStart } }

/-- PAT.STOP clears `music_playing`; PAT.NEXT moves to the next pattern, or halts at 63: the cursor's
value at a halt is the spec's own decision D20. A cursor above 63 is outside WF, its move the model's
choice (log 23). -/
def Obligations.PatStopAndNextMoveOrHalt : Prop :=
  ∀ s : State,
    exec .patStop s = .next { s with eng := { s.eng with musicPlaying := false } } ∧
    exec .patNext s = .next { s with eng :=
      if s.eng.musicPattern = 63 then { s.eng with musicPlaying := false }
      else { s.eng with musicPattern := s.eng.musicPattern + 1 } }

/-- The scheduler stands while music is stopped, and only counts while its timer runs. -/
def Obligations.MusicTimerCountsOnlyWhilePlaying : Prop :=
  ∀ (inp : Inputs) (e : Engine),
    (e.musicPlaying = false → musicTick inp e = e) ∧
    (e.musicPlaying = true → 2 ≤ e.musicTickTimer →
      musicTick inp e = { e with musicTickTimer := e.musicTickTimer - 1 })

/-- DISPATCH when the timer expires: each channel whose entry has bit 6 clear is triggered with the slot
of bits 5:0 and no other channel changes; the speed is the least of the triggered ones, or 1; the timer is
32 times it; loop-start marks p; then loop-back, else stop, else the next pattern, else a halt past 63;
the mask and the accumulators stand. -/
def Obligations.DispatchFollowsThePattern : Prop :=
  ∀ (inp : Inputs) (e : Engine), e.musicPlaying = true → e.musicTickTimer ≤ 1 →
    let p := e.musicPattern
    let b : ChanId → Byte := fun c => Memory.read inp.pat (4 * p + c.val)
    let t := musicTick inp e
    (∀ c : ChanId, bankGet t.ch c =
      if (b c).getLsbD 6 then bankGet e.ch c else triggered inp ((b c).toNat % 64) 0 true) ∧
    (dispatchedSpeeds inp p = [] → t.musicSpeed = 1) ∧
    (dispatchedSpeeds inp p ≠ [] → t.musicSpeed ∈ dispatchedSpeeds inp p ∧
      ∀ v ∈ dispatchedSpeeds inp p, t.musicSpeed ≤ v) ∧
    t.musicTickTimer = 32 * t.musicSpeed ∧
    t.musicLoopStart = (if (b 0).getLsbD 7 then p else e.musicLoopStart) ∧
    t.musicPattern = (if (b 1).getLsbD 7 then t.musicLoopStart
      else if (b 2).getLsbD 7 then p else if p = 63 then 63 else p + 1) ∧
    t.musicPlaying = (if (b 1).getLsbD 7 then true else if (b 2).getLsbD 7 then false else decide (p ≠ 63)) ∧
    t.musicMask = e.musicMask ∧ t.tickAcc = e.tickAcc ∧ t.pullAcc = e.pullAcc

/-- The parts of a dispatch are the instructions decoded from the pattern's bytes. -/
def Obligations.DispatchRunsDecodedEntries : Prop :=
  ∀ (s : State) (p : Nat),
    (∃ i t, decode s.cfg.waveMap (.entry (patEntry s.inp p s.work.chan)) = .ok i ∧ exec i s = .next t ∧
      playEntry s.inp p s.work.chan ⟨s.eng, s.work.minSpeed⟩ = ⟨t.eng, t.work.minSpeed⟩) ∧
    (entryMeta (patEntry s.inp p 0) = true →
      ∃ i t, decode s.cfg.waveMap (.entryMark (patEntry s.inp p 0)) = .ok i ∧ exec i s = .next t ∧
        applyMark (patEntry s.inp p 0) s.eng = t.eng) ∧
    (entryMeta (patEntry s.inp p 0) = false → applyMark (patEntry s.inp p 0) s.eng = s.eng) ∧
    (∃ i t, decode s.cfg.waveMap (.entryAdvance (patEntry s.inp p 1) (patEntry s.inp p 2)) = .ok i ∧
      exec i s = .next t ∧ applyAdvance (patEntry s.inp p 1) (patEntry s.inp p 2) s.eng = t.eng)

/-! ### Direct trigger and music control -/

/-- TRIGGER's target: the given channel if valid, else the first Idle, else the first non-music, else 3. -/
def Obligations.SelectTakesGivenThenIdleThenNonMusic : Prop :=
  ∀ (chan : Option Int) (b : Bank),
    let t := selectChannel chan b
    let idle : ChanId → Prop := fun c => (bankGet b c).cs.sfxId = -1
    let direct : ChanId → Prop := fun c => (bankGet b c).isMusic = false
    (∀ c : Int, chan = some c → 0 ≤ c → c ≤ 3 → (t.val : Int) = c) ∧
    ((∀ c : Int, chan = some c → c < 0 ∨ 3 < c) →
      ((∃ c, idle c) → idle t ∧ ∀ c, c < t → ¬ idle c) ∧
      ((¬ ∃ c, idle c) → (∃ c, direct c) → direct t ∧ ∀ c, c < t → ¬ direct c) ∧
      ((¬ ∃ c, idle c) → (¬ ∃ c, direct c) → t = 3))

/-- TRIGGER writes the whole of its target channel, returns the channel, and changes nothing else; the
values it writes beside the seed, the header and the counter are the spec's own decision D13. -/
def Obligations.TriggerLoadsItsTarget : Prop :=
  ∀ (n : Nat) (chan r0 : Option Int) (s : State), n ≤ 63 → 0 ≤ r0.getD 0 → r0.getD 0 ≤ 31 →
    let t := selectChannel chan s.eng.ch
    exec (.trigger n chan r0) s = .next
      { s with
        eng := { s.eng with ch := bankSet s.eng.ch t (triggered s.inp n (r0.getD 0).toNat false) }
        result := .channel t }

/-- MUSIC_START and MUSIC_STOP, the spec's own operations (decision D18): the six scalars, or
`music_playing` alone. -/
def Obligations.MusicStartAndStopWriteTheScalars : Prop :=
  ∀ (p mask : Nat) (s : State), p ≤ 63 → mask ≤ 15 →
    exec (.musicStart p mask) s = .next
      { s with
        eng := { s.eng with
          musicPattern := p, musicLoopStart := 0, musicSpeed := 1, musicTickTimer := 1, musicMask := mask,
          musicPlaying := true }
        result := .none } ∧
    exec .musicStop s = .next { s with eng := { s.eng with musicPlaying := false }, result := .none }

/-! ### Reset -/

/-- RESET leaves every field of S at the value 70_reset_and_hazards.md R285 lists (the values are the
spec's own decision D12) and touches neither inputs nor configuration. -/
def Obligations.ResetSetsEveryField : Prop :=
  ∀ s : State,
    let cs : ChannelState :=
      { sfxId := -1, lfsr := 0x7FFF#15, phi := 0, noiseSample := 1, currentVol := 0, currentPitchVal := 0,
        slideStartPitch := 0, vibPhase := 0, row := 0, lastNoteIdx := -1, tickCounter := 1, speed := 1,
        loopStart := 0, loopEnd := 0, loopActive := false }
    let ch : Channel := { cs := cs, child := cs, isMusic := false, effect := .none }
    exec .reset s = .next
      { s with
        eng := { ch := ⟨ch, ch, ch, ch⟩, musicPattern := 0, musicTickTimer := 1, musicSpeed := 1,
                 musicLoopStart := 0, musicMask := 0, musicPlaying := false, tickAcc := 0, pullAcc := 0 }
        result := .none } ∧
    State.reset.eng = Engine.reset ∧ exec .reset s = .next { s with eng := Engine.reset, result := .none }

/-- On the reset engine an unmuted GENERATE returns zeros, moves the tick accumulator and changes nothing
else. -/
def Obligations.GenerateOnResetIsSilent : Prop :=
  ∀ (s : State) (k : Nat), s.cfg.WF → s.eng = Engine.reset → ¬ Muted s.inp →
    exec (.generate k) s = .next
      { s with
        eng := { Engine.reset with tickAcc := k % s.cfg.samplesPerTick }
        result := .samples (List.replicate k 0) }

/-! ### Samples -/

/-- The block is muted exactly when `mute` is set or both volumes, as bounded to 0..10, are 0; while muted
SAMPLE and GENERATE yield zeros and change no field of S. -/
def Obligations.MutedBlockIsSilentAndFrozen : Prop :=
  ∀ (s : State) (k : Nat),
    (Muted s.inp ↔ (s.inp.mute = true ∨ (s.inp.volMusic ≤ 0 ∧ s.inp.volSfx ≤ 0))) ∧
    ((s.inp.mute = true ∨ (s.inp.volMusic ≤ 0 ∧ s.inp.volSfx ≤ 0)) →
      exec .sample s = .next { s with result := .pcm 0 } ∧
      exec (.generate k) s = .next { s with result := .samples (List.replicate k 0) })

/-- An unmuted SAMPLE of a state whose cursors address their memories: when the accumulator is 0, the music
scheduler and then CHANNEL_TICK of each of the four channels; the accumulator; the four renders summed in
ascending order in the operations of the instance's carrier (log 1); the output stage. `musicTick`,
`channelTick`, `renderChannel` and `output` are pinned by statements of their own. -/
def Obligations.SampleIsTickThenRenderThenOutput : Prop :=
  ∀ s : State, ¬ Muted s.inp → ¬ Strayed s.eng →
    let e1 := musicTick s.inp s.eng
    let e : Engine :=
      { (if s.eng.tickAcc = 0 then
          { e1 with ch := ⟨channelTick s.inp (bankGet e1.ch 0), channelTick s.inp (bankGet e1.ch 1),
                           channelTick s.inp (bankGet e1.ch 2), channelTick s.inp (bankGet e1.ch 3)⟩ }
         else s.eng) with
        tickAcc := (s.eng.tickAcc + 1) % s.cfg.samplesPerTick }
    let d : ChanId → Rendered := fun c => renderChannel s.cfg s.inp (bankGet e.ch c)
    let r := carried s.cfg.numerics
    exec .sample s = .next
      { s with
        eng := { e with ch := ⟨(d 0).ch, (d 1).ch, (d 2).ch, (d 3).ch⟩ }
        result := .pcm (output s.cfg s.inp.distort
          (r (r (r (r (0 + (d 0).out) + (d 1).out) + (d 2).out) + (d 3).out))) }

/-- RENDER is the effect instruction of the latched code, then the waveform instruction decoded from byte
1 of the rendered row, then the phase step, then the scaling by volume and bus, in the operations of the
instance's carrier (log 1); a channel that is Idle or
has no rendered row contributes 0 and keeps every field. -/
def Obligations.RenderIsEffectThenWaveform : Prop :=
  ∀ (s : State),
    let c := s.work.chan
    let ch := bankGet s.eng.ch c
    ((ch.cs.sfxId = -1 ∨ ch.cs.lastNoteIdx = -1) → renderChannel s.cfg s.inp ch = ⟨ch, 0⟩) ∧
    (ch.cs.sfxId ≠ -1 → ch.cs.lastNoteIdx ≠ -1 →
      ∃ i s1 s2,
        exec (effectInstr ch.effect) s = .next s1 ∧
        decode s.cfg.waveMap (.waveBits
          (Memory.read s.inp.instr (68 * ch.cs.sfxId.toNat + 2 * ch.cs.lastNoteIdx.toNat + 1))) = .ok i ∧
        exec i s1 = .next s2 ∧
        let p : F := phaseTotal s.cfg s1.work.pitch ch.cs.phi
        let ch2 := bankGet s2.eng.ch c
        (renderChannel s.cfg s.inp ch).ch =
          { ch2 with cs := { ch2.cs with phi := if p ≥ 1 then fractional s.cfg.numerics p else p } } ∧
        (renderChannel s.cfg s.inp ch).out = contribution s.cfg.numerics s.inp ch.isMusic s2.work.osc s1.work.vol)

/-- OUTPUT for every PCM_SCALE: the distortion on unbounded integers, gain 1/2, clamp, conversion by
truncation, in the operations of the instance's carrier (log 1). The scale and the truncations are the
spec's decisions D25, D26. -/
def Obligations.OutputDistortsHalvesClampsAndTruncates : Prop :=
  ∀ (cfg : Config) (distort : Bool) (mix : F), 0 < cfg.pcmScale →
    let r := carried cfg.numerics
    let scale : F := (cfg.pcmScale : F)
    let tz : F → Int := fun x => if 0 ≤ x then ⌊x⌋ else ⌈x⌉
    let q : Int := tz ((tz (r (mix * scale)) : F) / 4096)
    let m : F := if distort then r (((q * 4681 : Int) : F) / scale) else mix
    output cfg distort mix = tz (r (max (-1) (min 1 (r (m * r (1 / 2)))) * scale))

/-- Negating the mix negates the sample, with and without distortion, on every carrier. -/
def Obligations.OutputIsOdd : Prop :=
  ∀ (cfg : Config) (distort : Bool) (mix : F), output cfg distort (-mix) = -output cfg distort mix

/-- From every state whose whole-number fields are well formed SAMPLE completes with a value within the
scale, keeps that and, where it holds, WF on all of S, and leaves `pull_acc`, `music_mask`,
inputs, configuration, queue, locals and sink alone. -/
def Obligations.SampleCompletesWithinScale : Prop :=
  ∀ s : State, ControlInv s → ∃ (t : State) (v : Int),
    exec .sample s = .next t ∧ t.result = .pcm v ∧ -(s.cfg.pcmScale : Int) ≤ v ∧ v ≤ s.cfg.pcmScale ∧
    ControlInv t ∧ (MachineInv s → MachineInv t) ∧ t.eng.pullAcc = s.eng.pullAcc ∧
    t.eng.musicMask = s.eng.musicMask ∧
    t.inp = s.inp ∧ t.cfg = s.cfg ∧ t.queue = s.queue ∧ t.work = s.work ∧ t.sink = s.sink

/-- An Idle channel is skipped: no SAMPLE without a dispatch changes any field of it. -/
def Obligations.IdleChannelKeepsEveryField : Prop :=
  ∀ (s t : State) (c : ChanId), exec .sample s = .next t →
    (bankGet s.eng.ch c).cs.sfxId = -1 →
    (s.eng.tickAcc ≠ 0 ∨ s.eng.musicPlaying = false ∨ 2 ≤ s.eng.musicTickTimer) →
    bankGet t.eng.ch c = bankGet s.eng.ch c

/-- When every channel is Idle or has volume 0 the sample is 0. -/
def Obligations.SilentChannelsGiveZeroPcm : Prop :=
  ∀ (cfg : Config) (inp : Inputs) (e : Engine),
    (∀ c : ChanId, (bankGet e.ch c).cs.sfxId = -1 ∨ (bankGet e.ch c).cs.currentVol = 0) →
    (renderPart cfg inp e).pcm = 0

/-- Outside WF a cursor may address nothing, which has no meaning in the spec: an unmuted SAMPLE is then
refused, the model's own choice (log 16); with every cursor in its bounds it completes. -/
def Obligations.CursorOutsideMemoryIsRefused : Prop :=
  ∀ s : State, ¬ Muted s.inp →
    (Strayed s.eng → exec .sample s = .refused .cursorOutsideMemory) ∧
    (¬ Strayed s.eng → Completes (exec .sample s))

/-! ### GENERATE and UPDATE -/

/-- GENERATE with count 0 returns the empty sequence and is the identity on S; a negative count is
refused. -/
def Obligations.GenerateZeroIsIdentity : Prop :=
  ∀ s : State, exec (.generate 0) s = .next { s with result := .samples [] } ∧
    ∀ count : Int, count < 0 → exec (.generate count) s = .refused (.operandOutsideDomain "GENERATE")

/-- GENERATE is SAMPLE repeated: one more sample is SAMPLE first, then GENERATE of the rest under the same
inputs. That it stops where the first sample or a later one stops is the model's choice, since the spec
gives SAMPLE no stop (log 16). -/
def Obligations.GenerateIsRepeatedSample : Prop :=
  ∀ (s : State) (k : Nat),
    (∀ t v, exec .sample s = .next t → t.result = .pcm v →
      ∀ u vs, exec (.generate k) t = .next u → u.result = .samples vs →
        exec (.generate ((k + 1 : Nat) : Int)) s = .next { u with result := .samples (v :: vs) }) ∧
    (∀ x, exec .sample s = .refused x → exec (.generate ((k + 1 : Nat) : Int)) s = .refused x) ∧
    (∀ t x, exec .sample s = .next t → exec (.generate k) t = .refused x →
      exec (.generate ((k + 1 : Nat) : Int)) s = .refused x)

/-- GENERATE(a) then GENERATE(b) is GENERATE(a + b): the same samples and the same final state. -/
def Obligations.GenerateSplitsAnywhere : Prop :=
  ∀ (s t u : State) (a b : Nat) (va vb : List Int),
    exec (.generate a) s = .next t → t.result = .samples va →
    exec (.generate b) t = .next u → u.result = .samples vb →
    exec (.generate ((a + b : Nat) : Int)) s = .next { u with result := .samples (va ++ vb) }

/-- From every state whose whole-number fields are well formed GENERATE completes with `count` samples
within the scale and keeps that and, where it holds, WF on all of S; everything outside S and the result
stands. -/
def Obligations.GenerateCompletesWithCountSamples : Prop :=
  ∀ (s : State) (k : Nat), ControlInv s → ∃ (t : State) (vs : List Int),
    exec (.generate k) s = .next t ∧ t.result = .samples vs ∧ vs.length = k ∧
    (∀ v ∈ vs, -(s.cfg.pcmScale : Int) ≤ v ∧ v ≤ s.cfg.pcmScale) ∧
    ControlInv t ∧ (MachineInv s → MachineInv t) ∧ t.eng.pullAcc = s.eng.pullAcc ∧
    t.inp = s.inp ∧ t.cfg = s.cfg ∧ t.queue = s.queue ∧ t.work = s.work ∧ t.sink = s.sink

/-- UPDATE: the demand of one frame, the capped count, the remainder carried, the block of a GENERATE of
that count, delivered once to the sink and returned (decision D29). A demand below 0, which only a negative
`pull_acc` outside WF gives, is a negative count, which the model refuses as GENERATE does (log 19). -/
def Obligations.UpdateDeliversTheDueBlock : Prop :=
  ∀ s : State,
    let demand : F := s.eng.pullAcc + (s.cfg.nativeRate : F) / 60
    let n : Nat := min ⌊demand⌋.toNat s.cfg.pullCap
    (ControlInv s → ∃ (t u : State) (vs : List Int),
      exec (.generate n) { s with eng := { s.eng with pullAcc := demand - (n : F) } } = .next u ∧
      u.result = .samples vs ∧ vs.length = n ∧
      exec .update s = .next t ∧
      t = { u with sink := s.sink ++ [vs] } ∧ t.eng.pullAcc = demand - (n : F)) ∧
    (demand < 0 → exec .update s = .refused (.operandOutsideDomain "GENERATE"))

/-- Sixty UPDATEs from an empty pull accumulator, where the cap never acts, deliver exactly one second of
samples in sixty blocks and leave the accumulator empty. -/
def Obligations.SixtyUpdatesDeliverOneSecond : Prop :=
  ∀ s : State, ControlInv s → s.eng.pullAcc = 0 → s.cfg.nativeRate + 60 ≤ 60 * s.cfg.pullCap →
    ∃ (t : State) (blocks : List (List Int)),
      times .update 60 s = .next t ∧ t.sink = s.sink ++ blocks ∧ blocks.length = 60 ∧
      sampleCount blocks = s.cfg.nativeRate ∧ t.eng.pullAcc = 0

/-! ### Snapshots -/

/-- GETSTATE returns every field of S but `pull_acc` and writes no state. -/
def Obligations.GetStateReturnsTheSnapshot : Prop :=
  ∀ s : State,
    let x : Snapshot :=
      { ch := s.eng.ch, musicPattern := s.eng.musicPattern, musicTickTimer := s.eng.musicTickTimer,
        musicSpeed := s.eng.musicSpeed, musicLoopStart := s.eng.musicLoopStart, musicMask := s.eng.musicMask,
        musicPlaying := s.eng.musicPlaying, tickAcc := s.eng.tickAcc }
    exec .getState s = .next { s with result := .snapshot x }

/-- SETSTATE writes every field of S but `pull_acc` from a well-formed snapshot, and refuses any other. -/
def Obligations.SetStateRestoresAllButThePullAccumulator : Prop :=
  ∀ (s : State) (x : Snapshot),
    (SnapshotWF s.cfg x → exec (.setState x) s = .next
      { s with
        eng := { ch := x.ch, musicPattern := x.musicPattern, musicTickTimer := x.musicTickTimer,
                 musicSpeed := x.musicSpeed, musicLoopStart := x.musicLoopStart, musicMask := x.musicMask,
                 musicPlaying := x.musicPlaying, tickAcc := x.tickAcc, pullAcc := s.eng.pullAcc }
        result := .none }) ∧
    (¬ SnapshotWF s.cfg x → exec (.setState x) s = .refused .snapshotNotWellFormed)

/-- From every well-formed S, whatever the carrier: the snapshot GETSTATE returns is well formed,
SETSTATE(GETSTATE()) leaves S unchanged, and where that snapshot is set under the same configuration and
inputs GENERATE gives the PCM and the final snapshot it gives from S. -/
def Obligations.SnapshotRoundTripIsIdentity : Prop :=
  ∀ s : State, EngineWF s.cfg s.eng → ∃ t x, exec .getState s = .next t ∧ t.result = .snapshot x ∧
    SnapshotWF s.cfg x ∧ exec (.setState x) t = .next { s with result := .none } ∧
    ∀ u : State, u.cfg = s.cfg → u.inp = s.inp → ∃ v, exec (.setState x) u = .next v ∧
      ∀ (k : Nat) (s' : State), exec (.generate k) s = .next s' →
        ∃ v', exec (.generate k) v = .next v' ∧ v'.result = s'.result ∧
          v'.eng.toSnapshot = s'.eng.toSnapshot

/-- No operation but UPDATE and RESET reads or writes `pull_acc`: with another value in it every
instruction does the same and leaves that value. -/
def Obligations.PullAccumulatorReachesOnlyUpdate : Prop :=
  ∀ (i : Instr) (s : State) (p : F), i ≠ .update → i ≠ .reset →
    exec i (withPull p s) = mapState (withPull p) (exec i s)

/-- `music_mask` gates nothing: with another value in it every instruction that neither writes nor returns
it does the same and leaves that value. -/
def Obligations.MusicMaskIsInert : Prop :=
  ∀ (i : Instr) (s : State) (m : Nat), i ≠ .reset → (∀ p k, i ≠ .musicStart p k) → i ≠ .getState →
    (∀ x, i ≠ .setState x) →
    exec i (withMask m s) = mapState (withMask m) (exec i s)

/-! ### The VM's memories and the whole machine -/

/-- No instruction writes instrument or pattern memory or any other input, nor the configuration or the
queue; only UPDATE hands anything to the host. -/
def Obligations.InstructionsNeverWriteTheMemories : Prop :=
  ∀ (i : Instr) (s t : State), exec i s = .next t →
    t.inp = s.inp ∧ t.cfg = s.cfg ∧ t.queue = s.queue ∧ (i ≠ .update → t.sink = s.sink)

/-- A VM write of one byte is what the block reads there from then on, every other byte of both memories
reads as before, the canonical form stays, and an offset outside the array is refused (log 17). -/
def Obligations.VmWriteChangesOneByte : Prop :=
  ∀ (s : State) (a : Nat) (b : Byte) (rest : List Request), MemoriesWF s.inp →
    (s.queue = .pokeInstr a b :: rest →
      (a < 4352 → ∃ m, step s = .next { s with queue := rest, inp := { s.inp with instr := m } } ∧
        MemoriesWF { s.inp with instr := m } ∧
        ∀ x, Memory.read m x = if x = a then b else Memory.read s.inp.instr x) ∧
      (4352 ≤ a → step s = .refused (.vmWriteOutsideMemory a))) ∧
    (s.queue = .pokePat a b :: rest →
      (a < 256 → ∃ m, step s = .next { s with queue := rest, inp := { s.inp with pat := m } } ∧
        MemoriesWF { s.inp with pat := m } ∧
        ∀ x, Memory.read m x = if x = a then b else Memory.read s.inp.pat x) ∧
      (256 ≤ a → step s = .refused (.vmWriteOutsideMemory a)))

/-- The VM presents a volume or a flag: the step stores it, the volumes raw, and changes no other input and
nothing else (log 9, log 10). -/
def Obligations.VmSettingsReachOneInput : Prop :=
  ∀ (s : State) (rest : List Request) (v : Int) (b : Bool),
    (s.queue = .setVolMusic v :: rest →
      step s = .next { s with queue := rest, inp := { s.inp with volMusic := v } }) ∧
    (s.queue = .setVolSfx v :: rest →
      step s = .next { s with queue := rest, inp := { s.inp with volSfx := v } }) ∧
    (s.queue = .setMute b :: rest →
      step s = .next { s with queue := rest, inp := { s.inp with mute := b } }) ∧
    (s.queue = .setDistort b :: rest →
      step s = .next { s with queue := rest, inp := { s.inp with distort := b } })

/-- The machine after reset meets the invariant, for every configuration in its domain and so on every
carrier. -/
def Obligations.ResetMeetsTheMachineInvariant : Prop :=
  MachineInv State.reset ∧
  ∀ cfg : Config, cfg.WF → ControlInv (State.resetOf cfg) ∧ MachineInv (State.resetOf cfg)

/-- Every step keeps, on every carrier, WF of 10_state.md R55, the configuration's domain and the canonical
form of both memories; and so it keeps the part of WF on the whole-number fields by itself. -/
def Obligations.EveryStepKeepsWellFormedness : Prop :=
  ∀ s t : State, step s = .next t → (ControlInv s → ControlInv t) ∧ (MachineInv s → MachineInv t)

/-- The block raises nothing: from every state whose whole-number fields are well formed a well-formed
operation completes with a next state. -/
def Obligations.WellFormedOperationsAlwaysComplete : Prop :=
  ∀ (s : State) (h : HostCall) (rest : List Request) (i : Instr), ControlInv s → s.queue = .call h :: rest →
    decode s.cfg.waveMap (.call h) = .ok i → i.WellFormed s.cfg → ∃ t, step s = .next t
end

