-- ==== Sys2Proof/Laws/Memory.lean ====
section
/-! SUPPORT. The VM's memories: read after write, and every memory operation keeps the canonical form
(20_memory.md R64, R71). -/

namespace Sys2Proof.Machine

/-- A canonical form holds from any lower address on. -/
theorem Memory.wfFrom_mono {size lo lo' : Nat} {m : Memory} (h : lo' ≤ lo)
    (hm : Memory.wfFrom size lo m = true) : Memory.wfFrom size lo' m = true := by
  cases m with
  | nil => rfl
  | cons p t =>
    simp only [Memory.wfFrom, Bool.and_eq_true, decide_eq_true_iff] at hm ⊢
    exact ⟨⟨⟨h.trans hm.1.1.1, hm.1.1.2⟩, hm.1.2⟩, hm.2⟩

/-- Below its first address a canonical memory reads as unlisted. -/
theorem Memory.read_below {size lo a : Nat} {m : Memory} (h : a < lo)
    (hm : Memory.wfFrom size lo m = true) : Memory.read m a = unlistedByte := by
  induction m generalizing lo with
  | nil => rfl
  | cons p t ih =>
    simp only [Memory.wfFrom, Bool.and_eq_true, decide_eq_true_iff] at hm
    rw [Memory.read, if_neg (by omega)]
    exact ih (by omega) hm.2

/-- Read after write: the byte written at its own offset, every other offset as before. -/
theorem Memory.read_write {size lo : Nat} {m : Memory} (hm : Memory.wfFrom size lo m = true)
    (a : Nat) (b : Byte) (x : Nat) :
    Memory.read (Memory.write m a b) x = if x = a then b else Memory.read m x := by
  induction m generalizing lo with
  | nil =>
    by_cases hx : x = a
    · subst hx
      by_cases hb : b = unlistedByte <;> simp [Memory.write, Memory.read, hb]
    · by_cases hb : b = unlistedByte <;> simp [Memory.write, Memory.read, hb, hx, Ne.symm hx]
  | cons p t ih =>
    simp only [Memory.wfFrom, Bool.and_eq_true, decide_eq_true_iff] at hm
    have hlow : ∀ y, y < p.1 + 1 → Memory.read t y = unlistedByte := fun y hy => Memory.read_below hy hm.2
    have ih := ih hm.2
    unfold Memory.write
    by_cases h1 : a < p.1
    · rw [if_pos h1]
      by_cases hb : b = unlistedByte
      · rw [if_pos hb]
        by_cases hx : x = a
        · rw [if_pos hx, hb, Memory.read, if_neg (by omega), hlow x (by omega)]
        · rw [if_neg hx]
      · rw [if_neg hb, Memory.read]
        by_cases hx : x = a
        · rw [if_pos hx, if_pos hx.symm]
        · rw [if_neg hx, if_neg (Ne.symm hx)]
    · rw [if_neg h1]
      by_cases h2 : a = p.1
      · rw [if_pos h2]
        by_cases hb : b = unlistedByte
        · rw [if_pos hb]
          by_cases hx : x = a
          · rw [if_pos hx, hb, hlow x (by omega)]
          · rw [if_neg hx, Memory.read, if_neg (by omega)]
        · rw [if_neg hb, Memory.read, Memory.read]
          by_cases hx : x = a
          · rw [if_pos hx, if_pos hx.symm]
          · rw [if_neg hx, if_neg (Ne.symm hx), if_neg (by omega)]
      · rw [if_neg h2, Memory.read, Memory.read, ih]
        by_cases hx : x = a
        · rw [if_pos hx, if_neg (by omega), if_pos hx]
        · rw [if_neg hx, if_neg hx]

/-- A write inside the space keeps the canonical form. -/
theorem Memory.wfFrom_write {size lo : Nat} {m : Memory} (hm : Memory.wfFrom size lo m = true)
    {a : Nat} (b : Byte) (hlo : lo ≤ a) (ha : a < size) :
    Memory.wfFrom size lo (Memory.write m a b) = true := by
  induction m generalizing lo with
  | nil =>
    unfold Memory.write
    split
    · rfl
    · simp [Memory.wfFrom, *]
  | cons p t ih =>
    have hm0 := hm
    simp only [Memory.wfFrom, Bool.and_eq_true, decide_eq_true_iff] at hm
    unfold Memory.write
    split
    · split
      · exact hm0
      · simp only [Memory.wfFrom, Bool.and_eq_true, decide_eq_true_iff]
        exact ⟨⟨⟨hlo, ha⟩, by assumption⟩, ⟨⟨by omega, hm.1.1.2⟩, hm.1.2⟩, hm.2⟩
    · split
      · split
        · exact Memory.wfFrom_mono (by omega) hm.2
        · simp only [Memory.wfFrom, Bool.and_eq_true, decide_eq_true_iff]
          exact ⟨⟨⟨hlo, ha⟩, by assumption⟩, by rw [‹a = p.1›]; exact hm.2⟩
      · simp only [Memory.wfFrom, Bool.and_eq_true, decide_eq_true_iff]
        exact ⟨hm.1, ih hm.2 (by omega)⟩

/-- A write inside the space keeps the canonical form of the whole memory. -/
theorem Memory.wf_write {size : Nat} {m : Memory} (hm : Memory.wf size m = true) {a : Nat} (b : Byte)
    (ha : a < size) : Memory.wf size (Memory.write m a b) = true :=
  Memory.wfFrom_write hm b (Nat.zero_le a) ha

/-- Writing consecutive bytes inside the space keeps the canonical form. -/
theorem writeBytes_wf {size : Nat} (bs : List Byte) {m : Memory} (hm : Memory.wf size m = true) {a : Nat}
    (ha : a + bs.length ≤ size) : Memory.wf size (writeBytes m a bs) = true := by
  induction bs generalizing m a with
  | nil => exact hm
  | cons b t ih =>
    simp only [List.length_cons] at ha
    exact ih (Memory.wf_write hm b (by omega)) (by omega)

end Sys2Proof.Machine
end

