-- ==== Sys2Proof/Laws/Numerics.lean ====
section
/-! SUPPORT. What the numeric operations of 00_scope.md R8 to R13 can do, and the bounds the free values
are held to. -/

namespace Sys2Proof.Machine

/-! ### clamp, trunc -/

theorem clamp_le {x lo hi : F} (h : lo ≤ hi) : clamp x lo hi ≤ hi := by
  unfold clamp
  dsimp only
  split_ifs <;> linarith

theorem le_clamp (x lo hi : F) : lo ≤ clamp x lo hi := by
  unfold clamp
  dsimp only
  split_ifs <;> linarith

theorem clamp_of_mem {x lo hi : F} (hlo : lo ≤ x) (hhi : x ≤ hi) : clamp x lo hi = x := by
  unfold clamp
  dsimp only
  split_ifs <;> linarith

/-- A clamp to symmetric bounds is odd. -/
theorem clamp_neg {x b : F} (hb : 0 ≤ b) : clamp (-x) (-b) b = -clamp x (-b) b := by
  unfold clamp
  dsimp only
  split_ifs <;> linarith

theorem trunc_neg (x : F) : trunc (-x) = -trunc x := by
  simp [trunc, Int.neg_tdiv]

/-- Truncation never moves away from zero. -/
theorem trunc_le_of_le {x : F} {n : Int} (hn : 0 ≤ n) (h : x ≤ (n : F)) : trunc x ≤ n := by
  have hd : (0 : Int) < (x.den : Int) := by exact_mod_cast x.den_pos
  have hx : x.num ≤ n * (x.den : Int) := by
    have h1 : (x.num : F) = x * (x.den : F) := (Rat.mul_den_eq_num x).symm
    have h2 : (0 : F) < (x.den : F) := by exact_mod_cast x.den_pos
    have h3 : (x.num : F) ≤ (n : F) * (x.den : F) := by
      rw [h1]
      exact mul_le_mul_of_nonneg_right h h2.le
    exact_mod_cast h3
  unfold trunc
  rcases le_or_gt 0 x.num with h0 | h0
  · rw [Int.tdiv_eq_ediv_of_nonneg h0]
    exact Int.ediv_le_of_le_mul hd hx
  · have : x.num.tdiv (x.den : Int) ≤ 0 := by
      have := Int.neg_tdiv (-x.num) (x.den : Int)
      rw [neg_neg] at this
      rw [this]
      have := Int.tdiv_nonneg (a := -x.num) (b := (x.den : Int)) (by omega) hd.le
      omega
    omega

theorem le_trunc_of_le {x : F} {n : Int} (hn : 0 ≤ n) (h : -(n : F) ≤ x) : -n ≤ trunc x := by
  have := trunc_le_of_le (x := -x) hn (by linarith)
  rw [trunc_neg] at this
  omega

/-! ### The operations of a carrier -/

/-- The reference carrier keeps every exact result (00_scope.md R8). -/
theorem rnd_exact {n : Numerics} (h : n.carrier = .exact) (x : F) : rnd n x = x := by
  unfold rnd
  rw [h]

theorem le_roundMagnitude (k : Nat) {x : F} {j : Int} (h : (j : F) / 8 ≤ x) : (j : F) / 8 ≤ roundMagnitude k x := by
  refine le_trans ?_ (le_clamp _ _ _)
  have : j ≤ (8 * x).floor := Rat.le_floor_iff.2 (by linarith)
  have : (j : F) ≤ ((8 * x).floor : F) := by exact_mod_cast this
  linarith

theorem roundMagnitude_le (k : Nat) {x : F} {j : Int} (h : x ≤ (j : F) / 8) : roundMagnitude k x ≤ (j : F) / 8 := by
  refine (clamp_le ?_).trans ?_
  · have := (Rat.floor_le (8 * x)).trans Rat.le_ceil
    linarith
  · have : (8 * x).ceil ≤ j := Rat.ceil_le_iff.2 (by linarith)
    have : ((8 * x).ceil : F) ≤ (j : F) := by exact_mod_cast this
    linarith

/-- No rounding crosses a multiple of 1/8 downwards (log 1). -/
theorem le_rnd_eighth (n : Numerics) {x : F} {j : Int} (h : (j : F) / 8 ≤ x) : (j : F) / 8 ≤ rnd n x := by
  unfold rnd
  split
  · exact h
  · split_ifs
    · have := roundMagnitude_le ‹Nat› (x := -x) (j := -j) (by push_cast; linarith)
      push_cast at this
      linarith
    · exact le_roundMagnitude _ h

/-- No rounding crosses a multiple of 1/8 upwards (log 1). -/
theorem rnd_eighth_le (n : Numerics) {x : F} {j : Int} (h : x ≤ (j : F) / 8) : rnd n x ≤ (j : F) / 8 := by
  unfold rnd
  split
  · exact h
  · split_ifs
    · have := le_roundMagnitude ‹Nat› (x := -x) (j := -j) (by push_cast; linarith)
      push_cast at this
      linarith
    · exact roundMagnitude_le _ h

/-- Every carrier keeps a result above the whole numbers below it (log 1). -/
theorem le_rnd (n : Numerics) {x : F} {k : Int} (h : (k : F) ≤ x) : (k : F) ≤ rnd n x := by
  have := le_rnd_eighth n (x := x) (j := 8 * k) (by push_cast; linarith)
  push_cast at this
  linarith

/-- Every carrier keeps a result below the whole numbers above it (log 1). -/
theorem rnd_le (n : Numerics) {x : F} {k : Int} (h : x ≤ (k : F)) : rnd n x ≤ (k : F) := by
  have := rnd_eighth_le n (x := x) (j := 8 * k) (by push_cast; linarith)
  push_cast at this
  linarith

/-- Every carrier keeps a multiple of 1/8 (log 1). -/
theorem rnd_eighth (n : Numerics) (j : Int) : rnd n ((j : F) / 8) = (j : F) / 8 :=
  le_antisymm (rnd_eighth_le n le_rfl) (le_rnd_eighth n le_rfl)

/-- Every carrier keeps a whole number (log 1). -/
@[simp] theorem rnd_intCast (n : Numerics) (k : Int) : rnd n (k : F) = (k : F) :=
  le_antisymm (rnd_le n le_rfl) (le_rnd n le_rfl)

@[simp] theorem rnd_zero (n : Numerics) : rnd n 0 = 0 := by
  have := rnd_intCast n 0
  rwa [Int.cast_zero] at this

theorem rnd_nonneg (n : Numerics) {x : F} (h : 0 ≤ x) : 0 ≤ rnd n x := by
  have := le_rnd n (k := 0) (x := x) (by simpa using h)
  simpa using this

/-- Every carrier rounds symmetrically about 0 (45_sample_mixer_output.md R230(f); log 1). -/
theorem rnd_neg (n : Numerics) (x : F) : rnd n (-x) = -rnd n x := by
  rcases eq_or_ne x 0 with rfl | hx
  · simp
  · unfold rnd
    split
    · rfl
    · rcases lt_or_gt_of_ne hx with h | h
      · rw [if_neg (by linarith), if_pos h, neg_neg]
      · rw [if_pos (by linarith), if_neg (by linarith), neg_neg]

theorem fadd_exact {n : Numerics} (h : n.carrier = .exact) (x y : F) : fadd n x y = x + y := rnd_exact h _
theorem fsub_exact {n : Numerics} (h : n.carrier = .exact) (x y : F) : fsub n x y = x - y := rnd_exact h _
theorem fmul_exact {n : Numerics} (h : n.carrier = .exact) (x y : F) : fmul n x y = x * y := rnd_exact h _
theorem fdiv_exact {n : Numerics} (h : n.carrier = .exact) (x y : F) : fdiv n x y = x / y := rnd_exact h _

/-- A held value is the carrier's or the exact one, and below the bound when the exact one is. -/
theorem below_lt {hi v x : F} (h : x < hi) : below hi v x < hi := by
  unfold below
  split_ifs with hv
  · exact hv
  · exact h

theorem below_nonneg {hi v x : F} (hv : 0 ≤ v) (hx : 0 ≤ x) : 0 ≤ below hi v x := by
  unfold below
  split_ifs
  · exact hv
  · exact hx

@[simp] theorem below_self (hi x : F) : below hi x x = x := ite_self x

theorem frac_exact {n : Numerics} (h : n.carrier = .exact) (x : F) : frac n x = x - (x.floor : F) := by
  rw [frac, fsub_exact h, below_self]

theorem frac_nonneg (n : Numerics) (x : F) : 0 ≤ frac n x := by
  have := Rat.floor_le x
  exact below_nonneg (rnd_nonneg n (by linarith)) (by linarith)

/-- The fraction is below 1 on every carrier (40_oscillator_bank.md R113). -/
theorem frac_lt_one (n : Numerics) (x : F) : frac n x < 1 := by
  have : x < (x.floor : F) + 1 := Int.lt_floor_add_one x
  exact below_lt (by linarith)

/-! ### SIN and TWO_PI -/

@[simp] theorem sin_zero (n : Numerics) : sin n 0 = 0 := by simp [sin]

theorem sin_le_one (n : Numerics) (x : F) : sin n x ≤ 1 := by
  unfold sin
  split_ifs
  · norm_num
  · exact clamp_le (by norm_num)

theorem neg_one_le_sin (n : Numerics) (x : F) : -1 ≤ sin n x := by
  unfold sin
  split_ifs
  · norm_num
  · exact le_clamp _ _ _

theorem twoPi_pos (n : Numerics) : 0 < twoPi n := by
  unfold twoPi
  split_ifs with h
  · exact h
  · norm_num

/-! ### FREQ -/

theorem octaveFreq_pos (k : Int) : 0 < octaveFreq k := by
  unfold octaveFreq
  positivity

theorem gridDen_pos (tol : F) : 0 < gridDen tol := lt_of_lt_of_le Nat.one_pos (le_max_left _ _)

theorem freqNear_pos (tol p : F) : 0 < freqNear tol p := by
  have h : (0 : F) < (gridDen tol : F) := by exact_mod_cast gridDen_pos tol
  unfold freqNear
  exact div_pos (by exact_mod_cast Nat.succ_pos _) h

/-- FREQ is positive at every pitch (00_scope.md R9(a)). -/
theorem freq_pos (n : Numerics) (p : F) : 0 < freq n p := by
  unfold freq
  split_ifs with h1 h2
  · exact octaveFreq_pos _
  · simp only [freqOk, Bool.and_eq_true, decide_eq_true_eq] at h2
    exact h2.1.1
  · exact freqNear_pos _ _

/-- What FREQ can be: the exact octave, a value `freqOk` accepts, or `freqNear` (00_scope.md R9; log 2). -/
theorem freq_cases (n : Numerics) (p : F) :
    (n.carrier = .exact ∧ (p / 12).den = 1 ∧ freq n p = octaveFreq (p / 12).num) ∨
    freqOk (pitchTolerance n.freqTolerance p) p (freq n p) = true ∨
    freq n p = freqNear (pitchTolerance n.freqTolerance p) p := by
  unfold freq
  split_ifs with h1 h2
  · exact .inl ⟨h1.1, h1.2, rfl⟩
  · exact .inr (.inl h2)
  · exact .inr (.inr rfl)

/-- The search ends at the last number accepted below `acc + 2^k`, for an `ok` that accepts `acc` and an
initial segment (00_scope.md R9; log 2). -/
theorem gridSearch_spec {ok : Nat → Bool} (hok : ∀ a b, a ≤ b → ok b = true → ok a = true) (k : Nat) :
    ∀ acc, ok acc = true → ok (gridSearch ok k acc) = true ∧ acc ≤ gridSearch ok k acc ∧
      gridSearch ok k acc < acc + 2 ^ k ∧
      ∀ n, n < acc + 2 ^ k → ok n = true → n ≤ gridSearch ok k acc := by
  induction k with
  | zero =>
    intro acc h
    refine ⟨h, le_refl _, by simp [gridSearch], fun n hn _ => ?_⟩
    simp only [pow_zero] at hn
    simp only [gridSearch]
    omega
  | succ k ih =>
    intro acc h
    have hp : 2 ^ (k + 1) = 2 ^ k + 2 ^ k := by
      rw [pow_succ]
      omega
    rw [hp]
    unfold gridSearch
    by_cases hc : ok (acc + 2 ^ k) = true
    · rw [if_pos hc]
      obtain ⟨h1, h2, h3, h4⟩ := ih _ hc
      exact ⟨h1, by omega, by omega, fun n hn hk => h4 n (by omega) hk⟩
    · rw [if_neg hc]
      obtain ⟨h1, h2, h3, h4⟩ := ih _ h
      refine ⟨h1, h2, by omega, fun n hn hk => h4 n ?_ hk⟩
      by_contra hcon
      exact hc (hok _ _ (by omega) hk)

/-- The domain of NATIVE_RATE gives more than 2525 Hz (00_scope.md R7; log 7). -/
theorem nativeRate_ge {cfg : Config} (h : cfg.WF) : (2525 : F) < (cfg.nativeRate : F) := by
  have h1 := h.1
  have h2 := h.2.1
  linarith

/-- The phase increment is positive on every carrier (40_oscillator_bank.md R112). -/
theorem phaseInc_pos {cfg : Config} (h : cfg.WF) (pitch : F) : 0 < phaseInc cfg pitch := by
  have := nativeRate_ge h
  unfold phaseInc
  dsimp only
  split_ifs with hv
  · exact hv.1
  · exact div_pos (freq_pos _ pitch) (by linarith)

/-- The phase increment is below 1 where FREQ is below NATIVE_RATE (40_oscillator_bank.md R112). -/
theorem phaseInc_lt_one {cfg : Config} {pitch : F} (h : freq cfg.numerics pitch < (cfg.nativeRate : F)) :
    phaseInc cfg pitch < 1 := by
  have := freq_pos cfg.numerics pitch
  unfold phaseInc
  dsimp only
  split_ifs with hv
  · exact hv.2
  · exact (div_lt_one (by linarith)).2 h

theorem vibInc_nonneg (cfg : Config) : 0 ≤ vibInc cfg := by
  have h1 := twoPi_pos cfg.numerics
  have h2 : (0 : F) ≤ (cfg.nativeRate : F) := Nat.cast_nonneg _
  have h3 : 0 ≤ fmul cfg.numerics (twoPi cfg.numerics) 15 := rnd_nonneg _ (by linarith)
  exact below_nonneg (rnd_nonneg _ (div_nonneg h3 h2)) (div_nonneg (by linarith) h2)

/-- The vibrato step is below one period on every carrier (00_scope.md R10). -/
theorem vibInc_lt_twoPi {cfg : Config} (h : cfg.WF) : vibInc cfg < twoPi cfg.numerics := by
  have hr := nativeRate_ge h
  have := twoPi_pos cfg.numerics
  refine below_lt ?_
  rw [div_lt_iff₀ (by linarith)]
  nlinarith

end Sys2Proof.Machine
end

