-- ==== Sys2Proof/Laws/State.lean ====
section
/-! SUPPORT. One lemma per field per update of the state, and reading and writing a channel, so that no
later proof unfolds a record update. -/

namespace Sys2Proof.Machine

/-! ### Channels -/

@[simp] theorem bankGet_zero (b : Bank) : bankGet b 0 = b.c0 := rfl
@[simp] theorem bankGet_one (b : Bank) : bankGet b 1 = b.c1 := rfl
@[simp] theorem bankGet_two (b : Bank) : bankGet b 2 = b.c2 := rfl
@[simp] theorem bankGet_three (b : Bank) : bankGet b 3 = b.c3 := rfl

theorem chanId_cases (c : ChanId) : c = 0 ∨ c = 1 ∨ c = 2 ∨ c = 3 := by
  revert c; decide

@[simp] theorem bankGet_bankSet_self (b : Bank) (c : ChanId) (ch : Channel) :
    bankGet (bankSet b c ch) c = ch := by
  rcases chanId_cases c with rfl | rfl | rfl | rfl <;> rfl

theorem bankGet_bankSet_of_ne (b : Bank) {c d : ChanId} (ch : Channel) (h : d ≠ c) :
    bankGet (bankSet b c ch) d = bankGet b d := by
  rcases chanId_cases c with rfl | rfl | rfl | rfl <;>
    rcases chanId_cases d with rfl | rfl | rfl | rfl <;> first | rfl | exact absurd rfl h

@[simp] theorem bankSet_bankGet_self (b : Bank) (c : ChanId) : bankSet b c (bankGet b c) = b := by
  rcases chanId_cases c with rfl | rfl | rfl | rfl <;> rfl

theorem bank_ext_of_get {a b : Bank} (h : ∀ c, bankGet a c = bankGet b c) : a = b := by
  have h0 := h 0
  have h1 := h 1
  have h2 := h 2
  have h3 := h 3
  simp only [bankGet_zero, bankGet_one, bankGet_two, bankGet_three] at h0 h1 h2 h3
  cases a
  cases b
  simp_all

theorem forall_chan_iff {p : Channel → Prop} (b : Bank) :
    (∀ c : ChanId, p (bankGet b c)) ↔ p b.c0 ∧ p b.c1 ∧ p b.c2 ∧ p b.c3 := by
  constructor
  · intro h
    exact ⟨h 0, h 1, h 2, h 3⟩
  · rintro ⟨h0, h1, h2, h3⟩ c
    rcases chanId_cases c with rfl | rfl | rfl | rfl <;> assumption

@[simp] theorem chan_setChan_self (e : Engine) (c : ChanId) (ch : Channel) : (e.setChan c ch).chan c = ch :=
  bankGet_bankSet_self _ _ _

theorem chan_setChan_of_ne (e : Engine) {c d : ChanId} (ch : Channel) (h : d ≠ c) :
    (e.setChan c ch).chan d = e.chan d := bankGet_bankSet_of_ne _ _ h

@[simp] theorem setChan_chan_self (e : Engine) (c : ChanId) : e.setChan c (e.chan c) = e := by
  simp [Engine.setChan, Engine.chan]

@[simp] theorem setChan_ch (e : Engine) (c : ChanId) (ch : Channel) :
    (e.setChan c ch).ch = bankSet e.ch c ch := rfl
@[simp] theorem setChan_musicPattern (e : Engine) (c : ChanId) (ch : Channel) :
    (e.setChan c ch).musicPattern = e.musicPattern := rfl
@[simp] theorem setChan_musicTickTimer (e : Engine) (c : ChanId) (ch : Channel) :
    (e.setChan c ch).musicTickTimer = e.musicTickTimer := rfl
@[simp] theorem setChan_musicSpeed (e : Engine) (c : ChanId) (ch : Channel) :
    (e.setChan c ch).musicSpeed = e.musicSpeed := rfl
@[simp] theorem setChan_musicLoopStart (e : Engine) (c : ChanId) (ch : Channel) :
    (e.setChan c ch).musicLoopStart = e.musicLoopStart := rfl
@[simp] theorem setChan_musicMask (e : Engine) (c : ChanId) (ch : Channel) :
    (e.setChan c ch).musicMask = e.musicMask := rfl
@[simp] theorem setChan_musicPlaying (e : Engine) (c : ChanId) (ch : Channel) :
    (e.setChan c ch).musicPlaying = e.musicPlaying := rfl
@[simp] theorem setChan_tickAcc (e : Engine) (c : ChanId) (ch : Channel) :
    (e.setChan c ch).tickAcc = e.tickAcc := rfl
@[simp] theorem setChan_pullAcc (e : Engine) (c : ChanId) (ch : Channel) :
    (e.setChan c ch).pullAcc = e.pullAcc := rfl

/-! ### withEngine -/

@[simp] theorem withEngine_cfg (s : State) (e : Engine) : (s.withEngine e).cfg = s.cfg := rfl
@[simp] theorem withEngine_eng (s : State) (e : Engine) : (s.withEngine e).eng = e := rfl
@[simp] theorem withEngine_inp (s : State) (e : Engine) : (s.withEngine e).inp = s.inp := rfl
@[simp] theorem withEngine_queue (s : State) (e : Engine) : (s.withEngine e).queue = s.queue := rfl
@[simp] theorem withEngine_work (s : State) (e : Engine) : (s.withEngine e).work = s.work := rfl
@[simp] theorem withEngine_result (s : State) (e : Engine) : (s.withEngine e).result = s.result := rfl
@[simp] theorem withEngine_sink (s : State) (e : Engine) : (s.withEngine e).sink = s.sink := rfl
@[simp] theorem withEngine_self (s : State) : s.withEngine s.eng = s := rfl

/-! ### withResult -/

@[simp] theorem withResult_cfg (s : State) (r : OpResult) : (s.withResult r).cfg = s.cfg := rfl
@[simp] theorem withResult_eng (s : State) (r : OpResult) : (s.withResult r).eng = s.eng := rfl
@[simp] theorem withResult_inp (s : State) (r : OpResult) : (s.withResult r).inp = s.inp := rfl
@[simp] theorem withResult_queue (s : State) (r : OpResult) : (s.withResult r).queue = s.queue := rfl
@[simp] theorem withResult_work (s : State) (r : OpResult) : (s.withResult r).work = s.work := rfl
@[simp] theorem withResult_result (s : State) (r : OpResult) : (s.withResult r).result = r := rfl
@[simp] theorem withResult_sink (s : State) (r : OpResult) : (s.withResult r).sink = s.sink := rfl

/-! ### deliver -/

@[simp] theorem deliver_cfg (s : State) (b : List Int) : (s.deliver b).cfg = s.cfg := rfl
@[simp] theorem deliver_eng (s : State) (b : List Int) : (s.deliver b).eng = s.eng := rfl
@[simp] theorem deliver_inp (s : State) (b : List Int) : (s.deliver b).inp = s.inp := rfl
@[simp] theorem deliver_queue (s : State) (b : List Int) : (s.deliver b).queue = s.queue := rfl
@[simp] theorem deliver_work (s : State) (b : List Int) : (s.deliver b).work = s.work := rfl
@[simp] theorem deliver_result (s : State) (b : List Int) : (s.deliver b).result = s.result := rfl
@[simp] theorem deliver_sink (s : State) (b : List Int) : (s.deliver b).sink = s.sink ++ [b] := rfl

/-! ### putCs, putResolved, putSampled -/

@[simp] theorem putCs_cfg (s : State) (cs : ChannelState) : (s.putCs cs).cfg = s.cfg := rfl
@[simp] theorem putCs_eng (s : State) (cs : ChannelState) :
    (s.putCs cs).eng = s.eng.setChan s.work.chan { s.curChan with cs := cs } := rfl
@[simp] theorem putCs_inp (s : State) (cs : ChannelState) : (s.putCs cs).inp = s.inp := rfl
@[simp] theorem putCs_queue (s : State) (cs : ChannelState) : (s.putCs cs).queue = s.queue := rfl
@[simp] theorem putCs_work (s : State) (cs : ChannelState) : (s.putCs cs).work = s.work := rfl
@[simp] theorem putCs_result (s : State) (cs : ChannelState) : (s.putCs cs).result = s.result := rfl
@[simp] theorem putCs_sink (s : State) (cs : ChannelState) : (s.putCs cs).sink = s.sink := rfl

@[simp] theorem putCs_self (s : State) : s.putCs s.curChan.cs = s := by
  change s.withEngine (s.eng.setChan s.work.chan s.curChan) = s
  rw [State.curChan, setChan_chan_self, withEngine_self]

@[simp] theorem putResolved_cfg (s : State) (r : Resolved) : (s.putResolved r).cfg = s.cfg := rfl
@[simp] theorem putResolved_eng (s : State) (r : Resolved) : (s.putResolved r).eng = (s.putCs r.cs).eng := rfl
@[simp] theorem putResolved_inp (s : State) (r : Resolved) : (s.putResolved r).inp = s.inp := rfl
@[simp] theorem putResolved_queue (s : State) (r : Resolved) : (s.putResolved r).queue = s.queue := rfl
@[simp] theorem putResolved_work (s : State) (r : Resolved) :
    (s.putResolved r).work = { s.work with pitch := r.pitch, vol := r.vol } := rfl
@[simp] theorem putResolved_result (s : State) (r : Resolved) : (s.putResolved r).result = s.result := rfl
@[simp] theorem putResolved_sink (s : State) (r : Resolved) : (s.putResolved r).sink = s.sink := rfl

@[simp] theorem putSampled_cfg (s : State) (r : Sampled) : (s.putSampled r).cfg = s.cfg := rfl
@[simp] theorem putSampled_eng (s : State) (r : Sampled) : (s.putSampled r).eng = (s.putCs r.cs).eng := rfl
@[simp] theorem putSampled_inp (s : State) (r : Sampled) : (s.putSampled r).inp = s.inp := rfl
@[simp] theorem putSampled_queue (s : State) (r : Sampled) : (s.putSampled r).queue = s.queue := rfl
@[simp] theorem putSampled_work (s : State) (r : Sampled) :
    (s.putSampled r).work = { s.work with osc := r.osc } := rfl
@[simp] theorem putSampled_result (s : State) (r : Sampled) : (s.putSampled r).result = s.result := rfl
@[simp] theorem putSampled_sink (s : State) (r : Sampled) : (s.putSampled r).sink = s.sink := rfl

/-- An effect that leaves the ChannelState alone changes nothing but the pair in `work`. -/
theorem putResolved_self (s : State) (p v : F) :
    s.putResolved ⟨s.curChan.cs, p, v⟩ = { s with work := { s.work with pitch := p, vol := v } } := by
  simp [State.putResolved]

/-- A generator that leaves the ChannelState alone changes nothing but the sample in `work`. -/
theorem putSampled_self (s : State) (o : F) :
    s.putSampled ⟨s.curChan.cs, o⟩ = { s with work := { s.work with osc := o } } := by
  simp [State.putSampled]

/-- SETSTATE's test is the predicate WF_SNAPSHOT (46_snapshot.md R243). -/
theorem snapshotOk_iff (cfg : Config) (x : Snapshot) : snapshotOk cfg x = true ↔ SnapshotWF cfg x := by
  rw [snapshotOk, Bool.and_eq_true, decide_eq_true_iff, decide_eq_true_iff]

end Sys2Proof.Machine
end

