-- ==== Sys2Proof/Laws/Ops.lean ====
section
/-! SUPPORT. For each shared operation of the machine one lemma that says once what it can do, and the
lemmas that it keeps WF (10_state.md R55). -/

namespace Sys2Proof.Machine

/-! ### Trigger and header -/

/-- The whole-number fields of a triggered channel, whatever the memory holds (43_direct_trigger.md R187). -/
theorem triggeredChannel_control (inp : Inputs) {n r0 : Nat} (music : Bool) (hn : n ≤ 63) (hr : r0 ≤ 31) :
    ChannelControlWF (triggeredChannel inp n r0 music) := by
  have h65 := (instrByte inp (headerOffset n 65)).isLt
  have h66 := (instrByte inp (headerOffset n 66)).isLt
  have h67 := (instrByte inp (headerOffset n 67)).isLt
  refine ⟨?_, ?_⟩
  · simp only [triggeredChannel, latchHeader, triggerBase, loopActiveOf, ControlWF]
    exact ⟨by omega, by omega, by decide, by omega, by omega, by omega, rfl⟩
  · exact (by decide : ControlWF childTrigger)

/-- The float fields of a channel at rest, whatever the instance. -/
theorem rest_signal {n : Numerics} {cs : ChannelState} (hp : cs.phi = 0) (hn : cs.noiseSample = 1)
    (hv : cs.currentVol = 0) (hk : cs.currentPitchVal = 0) (ho : cs.slideStartPitch = 0)
    (hvib : cs.vibPhase = 0) : SignalWF n cs := by
  unfold SignalWF
  rw [hp, hn, hv, hk, ho, hvib]
  exact ⟨by norm_num, .inr rfl, by decide, by decide, by decide, .inl rfl⟩

/-- A triggered channel is well formed (43_direct_trigger.md R187). -/
theorem triggeredChannel_wf (m : Numerics) (inp : Inputs) {n r0 : Nat} (music : Bool) (hn : n ≤ 63)
    (hr : r0 ≤ 31) : ChannelWF m (triggeredChannel inp n r0 music) := by
  obtain ⟨h1, h2⟩ := triggeredChannel_control inp music hn hr
  exact ⟨⟨h1, rest_signal rfl rfl rfl rfl rfl rfl⟩, ⟨h2, rest_signal rfl rfl rfl rfl rfl rfl⟩⟩

/-- A channel after RESET is well formed (70_reset_and_hazards.md R285). -/
theorem channelReset_wf (n : Numerics) : ChannelWF n channelReset := by
  have h : ChannelStateWF n channelStateReset := ⟨by decide, rest_signal rfl rfl rfl rfl rfl rfl⟩
  exact ⟨h, h⟩

/-! ### NOTE and the channel tick -/

theorem whole_natCast {k : Nat} {hi : Int} (h : (k : Int) ≤ hi) : WholeUpTo (k : F) hi := by
  refine ⟨rfl, ?_, ?_⟩
  · show 0 ≤ ((k : Nat) : F).num
    simp
  · show ((k : Nat) : F).num ≤ hi
    simpa using h

/-- The whole-number fields after a row latched into an Active channel (42_tick_scheduler.md R171 to
R178). -/
theorem latchNote_control {key : BitVec 6} {eff vol : BitVec 3} {ch : Channel} (h : ChannelControlWF ch)
    (ha : ch.cs.sfxId ≠ -1) : ChannelControlWF (latchNote key eff vol ch) := by
  obtain ⟨⟨hs, hr, hl, ht, hls, hle, hla⟩, hc⟩ := h
  refine ⟨?_, hc⟩
  have hr31 := hr.2 ha
  simp only [latchNote]
  refine ⟨?_, ?_, ?_, ht, hls, hle, hla⟩
  · dsimp only
    split_ifs
    · omega
    · exact hs
  · have hwl : Wraps ch.cs (ch.cs.row + 1) → ch.cs.loopStart < ch.cs.loopEnd := fun hw => by
      simpa using hla.symm.trans hw.1
    dsimp only
    split_ifs with h1 h2 h2
    · exact absurd h1 h2.1
    · have := hwl h1
      have := h1.2
      omega
    · omega
    · have : ¬ 31 < ch.cs.row + 1 := fun h31 => h2 ⟨h1, h31⟩
      omega
  · dsimp only
    omega

/-- The float fields after a row latched into a channel (42_tick_scheduler.md R172, R173). -/
theorem latchNote_signal {n : Numerics} {key : BitVec 6} {eff vol : BitVec 3} {ch : Channel}
    (h : SignalWF n ch.cs) : SignalWF n (latchNote key eff vol ch).cs := by
  obtain ⟨hp, hn, hv, hk, ho, hvib⟩ := h
  have hk' := key.isLt
  have hv' := vol.isLt
  simp only [latchNote]
  refine ⟨hp, hn, whole_natCast (by omega), whole_natCast (by omega), ?_, hvib⟩
  dsimp only
  split_ifs
  · exact ho
  · exact whole_natCast (by omega)

/-- A channel tick keeps the whole-number fields well formed (42_tick_scheduler.md R179). -/
theorem channelTick_control {inp : Inputs} {ch : Channel} (h : ChannelControlWF ch) :
    ChannelControlWF (channelTick inp ch) := by
  obtain ⟨⟨hs, hr, hl, ht, hrest⟩, hc⟩ := h
  unfold channelTick
  split_ifs with hi h1
  · exact ⟨⟨hs, hr, hl, ht, hrest⟩, hc⟩
  · exact latchNote_control ⟨⟨hs, hr, hl, by dsimp only; omega, hrest⟩, hc⟩ hi
  · exact ⟨⟨hs, hr, hl, by dsimp only; omega, hrest⟩, hc⟩

/-- A channel tick keeps a channel well formed (42_tick_scheduler.md R179). -/
theorem channelTick_wf {n : Numerics} {inp : Inputs} {ch : Channel} (h : ChannelWF n ch) :
    ChannelWF n (channelTick inp ch) := by
  obtain ⟨⟨hcs, hsig⟩, hck, hsk⟩ := h
  obtain ⟨h1, h2⟩ := channelTick_control (inp := inp) (ch := ch) ⟨hcs, hck⟩
  refine ⟨⟨h1, ?_⟩, h2, ?_⟩ <;> unfold channelTick <;> split_ifs
  · exact hsig
  · exact latchNote_signal (ch := { ch with cs := { ch.cs with tickCounter := ch.cs.speed } }) hsig
  · exact hsig
  all_goals exact hsk

/-- A channel tick is one of three things: nothing, a count, a fire (42_tick_scheduler.md R179). -/
theorem channelTick_cases (inp : Inputs) (ch : Channel) :
    (Idle ch.cs ∧ channelTick inp ch = ch) ∨
    (¬ Idle ch.cs ∧ 2 ≤ ch.cs.tickCounter ∧
      channelTick inp ch = { ch with cs := { ch.cs with tickCounter := ch.cs.tickCounter - 1 } }) ∨
    (¬ Idle ch.cs ∧ ch.cs.tickCounter ≤ 1 ∧ channelTick inp ch = fireRow inp ch) := by
  unfold channelTick
  split_ifs with hi ht
  · exact .inl ⟨hi, rfl⟩
  · exact .inr (.inr ⟨hi, by omega, rfl⟩)
  · exact .inr (.inl ⟨hi, by omega, rfl⟩)

/-! ### Effects -/

/-- What an effect leaves of the ChannelState: all of it but `vib_phase` (44_effect_modulator.md R210). -/
theorem resolve_cs (cfg : Config) (ch : Channel) :
    ∃ v, (resolve cfg ch).cs = { ch.cs with vibPhase := v } ∧
      (v = ch.cs.vibPhase ∨ v = vibAdvance cfg ch.cs.vibPhase) := by
  unfold resolve
  split
  case h_3 => exact ⟨_, rfl, .inr rfl⟩
  all_goals exact ⟨ch.cs.vibPhase, rfl, .inl rfl⟩

/-- One wrap is enough for the vibrato phase, on every carrier (44_effect_modulator.md R203). -/
theorem vibAdvance_ok {cfg : Config} (hc : cfg.WF) {v : F} (h : VibPhaseOk cfg.numerics v) :
    VibPhaseOk cfg.numerics (vibAdvance cfg v) := by
  have h1 := vibInc_nonneg cfg
  have h2 := vibInc_lt_twoPi hc
  have h3 := twoPi_pos cfg.numerics
  have hv : 0 ≤ v ∧ v < twoPi cfg.numerics := by
    rcases h with rfl | ⟨ha, hb⟩
    · exact ⟨le_refl 0, h3⟩
    · exact ⟨ha.le, hb⟩
  have hsum : 0 ≤ v + vibInc cfg := by linarith [hv.1]
  have hph : 0 ≤ below (2 * twoPi cfg.numerics) (fadd cfg.numerics v (vibInc cfg)) (v + vibInc cfg) ∧
      below (2 * twoPi cfg.numerics) (fadd cfg.numerics v (vibInc cfg)) (v + vibInc cfg) <
        2 * twoPi cfg.numerics :=
    ⟨below_nonneg (rnd_nonneg _ hsum) hsum, below_lt (by linarith [hv.2])⟩
  have hmem : 0 ≤ vibAdvance cfg v ∧ vibAdvance cfg v < twoPi cfg.numerics := by
    unfold vibAdvance
    dsimp only
    generalize below (2 * twoPi cfg.numerics) (fadd cfg.numerics v (vibInc cfg)) (v + vibInc cfg) = ph at hph
    split_ifs with hw
    · exact ⟨below_nonneg (rnd_nonneg _ (by linarith)) (by linarith), below_lt (by linarith [hph.2])⟩
    · exact ⟨hph.1, not_le.1 hw⟩
  rcases eq_or_lt_of_le hmem.1 with he | hl
  · exact .inl he.symm
  · exact .inr ⟨hl, hmem.2⟩

/-- `progress` of a note whose speed is at least 1 (44_effect_modulator.md R200). -/
theorem progress_eq (n : Numerics) {cs : ChannelState} (h : 1 ≤ cs.speed) :
    progress n cs = below 1 (fsub n 1 (fdiv n (cs.tickCounter : F) (cs.speed : F)))
      (1 - (cs.tickCounter : F) / (cs.speed : F)) := if_neg (by omega)

/-- `progress` lies in [0, 1) on every carrier (44_effect_modulator.md R200). -/
theorem progress_mem (n : Numerics) {cs : ChannelState} (h1 : 1 ≤ cs.tickCounter)
    (h2 : cs.tickCounter ≤ cs.speed) : 0 ≤ progress n cs ∧ progress n cs < 1 := by
  have hs : (0 : F) < (cs.speed : F) := by exact_mod_cast (show 0 < cs.speed by omega)
  have ht : (0 : F) < (cs.tickCounter : F) := by exact_mod_cast (show 0 < cs.tickCounter by omega)
  have hle : (cs.tickCounter : F) ≤ (cs.speed : F) := by exact_mod_cast h2
  have hd : 0 < (cs.tickCounter : F) / (cs.speed : F) := div_pos ht hs
  have hd1 : (cs.tickCounter : F) / (cs.speed : F) ≤ 1 := (div_le_one hs).2 hle
  have hq1 : fdiv n (cs.tickCounter : F) (cs.speed : F) ≤ 1 := by
    have := rnd_le n (k := 1) (x := (cs.tickCounter : F) / (cs.speed : F)) (by
      rw [Int.cast_one]
      exact hd1)
    rwa [Int.cast_one] at this
  rw [progress_eq n (by omega)]
  exact ⟨below_nonneg (rnd_nonneg n (by linarith)) (by linarith), below_lt (by linarith)⟩

/-- A whole number of the state's ranges, as bounds on F. -/
theorem WholeUpTo.bounds {x : F} {hi : Int} (h : WholeUpTo x hi) : 0 ≤ x ∧ x ≤ (hi : F) := by
  have hx : x = (x.num : F) := by
    have := Rat.num_div_den x
    rw [h.1] at this
    simpa using this.symm
  constructor
  · rw [hx]
    exact_mod_cast h.2.1
  · rw [hx]
    exact_mod_cast h.2.2

/-- An effect keeps a ChannelState well formed. -/
theorem resolve_wf {cfg : Config} (hc : cfg.WF) {ch : Channel}
    (h : ChannelStateWF cfg.numerics ch.cs) : ChannelStateWF cfg.numerics (resolve cfg ch).cs := by
  obtain ⟨v, hv, hor⟩ := resolve_cs cfg ch
  rw [hv]
  obtain ⟨hctl, hp, hn, hvol, hk, ho, hvib⟩ := h
  refine ⟨hctl, hp, hn, hvol, hk, ho, ?_⟩
  rcases hor with rfl | rfl
  · exact hvib
  · exact vibAdvance_ok hc hvib

/-! ### Oscillators -/

/-- What OSC_STEP leaves of the ChannelState: all of it but `phi`, `lfsr` and `noise_sample`
(40_oscillator_bank.md R126). -/
theorem oscStep_cs (cfg : Config) (w : Waveform) (pitch : F) (cs : ChannelState) :
    ∃ l n, (oscStep cfg w pitch cs).cs =
        { cs with phi := (phaseAdvance cfg pitch cs).phi, lfsr := l, noiseSample := n } ∧
      (n = cs.noiseSample ∨ n = 1 ∨ n = -1) := by
  cases w
  case noise =>
    simp only [oscStep, waveSample, waveNoise, noiseClock]
    split_ifs with hw
    · refine ⟨lfsrStep cs.lfsr, latchOf (lfsrStep cs.lfsr), rfl, ?_⟩
      unfold latchOf
      split_ifs
      · exact .inr (.inl rfl)
      · exact .inr (.inr rfl)
    · exact ⟨cs.lfsr, cs.noiseSample, rfl, .inl rfl⟩
  all_goals exact ⟨cs.lfsr, cs.noiseSample, rfl, .inl rfl⟩

theorem phaseSum_nonneg {cfg : Config} (hc : cfg.WF) (pitch : F) {cs : ChannelState} (h : 0 ≤ cs.phi) :
    0 ≤ phaseSum cfg pitch cs := by
  have hi := phaseInc_pos hc pitch
  exact below_nonneg (rnd_nonneg _ (by linarith)) (by linarith)

/-- One wrap per sample is all that can happen, on every carrier (40_oscillator_bank.md R113). -/
theorem phaseSum_lt_two {cfg : Config} {pitch : F} {cs : ChannelState} (h : cs.phi < 1)
    (hi : phaseInc cfg pitch < 1) : phaseSum cfg pitch cs < 2 :=
  below_lt (by linarith)

/-- The phase stays in [0, 1) on every carrier (40_oscillator_bank.md R113). -/
theorem phaseAdvance_phi_mem {cfg : Config} (hc : cfg.WF) (pitch : F) {cs : ChannelState}
    (h : 0 ≤ cs.phi) : 0 ≤ (phaseAdvance cfg pitch cs).phi ∧ (phaseAdvance cfg pitch cs).phi < 1 := by
  by_cases hw : 1 ≤ phaseSum cfg pitch cs
  · have he : (phaseAdvance cfg pitch cs).phi = frac cfg.numerics (phaseSum cfg pitch cs) := if_pos hw
    rw [he]
    exact ⟨frac_nonneg _ _, frac_lt_one _ _⟩
  · have he : (phaseAdvance cfg pitch cs).phi = phaseSum cfg pitch cs := if_neg hw
    rw [he]
    exact ⟨phaseSum_nonneg hc pitch h, not_le.1 hw⟩

/-- OSC_STEP keeps a ChannelState well formed. -/
theorem oscStep_wf {cfg : Config} (hc : cfg.WF) (w : Waveform) (pitch : F) {cs : ChannelState}
    (h : ChannelStateWF cfg.numerics cs) :
    ChannelStateWF cfg.numerics (oscStep cfg w pitch cs).cs := by
  obtain ⟨l, n, he, hn'⟩ := oscStep_cs cfg w pitch cs
  rw [he]
  obtain ⟨hctl, hp, hn, hrest⟩ := h
  refine ⟨hctl, phaseAdvance_phi_mem hc pitch hp.1, ?_, hrest⟩
  rcases hn' with rfl | rfl | rfl
  · exact hn
  · exact .inr rfl
  · exact .inl rfl

/-! ### Render -/

/-- A channel that does not render keeps every field and contributes 0 (45_sample_mixer_output.md R216). -/
theorem renderChannel_of_not {cfg : Config} {inp : Inputs} {ch : Channel} (h : ¬ Renders ch.cs) :
    renderChannel cfg inp ch = ⟨ch, 0⟩ := if_neg h

/-- What RENDER leaves of a channel: all of it but the four fields the generator and the effect own
(45_sample_mixer_output.md R228). -/
theorem renderChannel_ch (cfg : Config) (inp : Inputs) (ch : Channel) :
    ∃ phi lfsr noise vib, (renderChannel cfg inp ch).ch =
      { ch with cs := { ch.cs with phi := phi, lfsr := lfsr, noiseSample := noise, vibPhase := vib } } := by
  by_cases h : Renders ch.cs
  · simp only [renderChannel, if_pos h]
    obtain ⟨v, hv, -⟩ := resolve_cs cfg ch
    obtain ⟨l, n, he, -⟩ :=
      oscStep_cs cfg (renderWave cfg inp ch.cs) (resolve cfg ch).pitch (resolve cfg ch).cs
    refine ⟨(phaseAdvance cfg (resolve cfg ch).pitch (resolve cfg ch).cs).phi, l, n, v, ?_⟩
    rw [he, hv]
  · rw [renderChannel_of_not h]
    exact ⟨_, _, _, _, rfl⟩

/-- RENDER keeps the whole-number fields well formed, whatever the carrier. -/
theorem renderChannel_control (cfg : Config) {inp : Inputs} {ch : Channel} (h : ChannelControlWF ch) :
    ChannelControlWF (renderChannel cfg inp ch).ch := by
  obtain ⟨phi, lfsr, noise, vib, he⟩ := renderChannel_ch cfg inp ch
  rw [he]
  exact h

/-- RENDER keeps a channel well formed. -/
theorem renderChannel_wf {cfg : Config} (hc : cfg.WF) {inp : Inputs} {ch : Channel}
    (h : ChannelWF cfg.numerics ch) : ChannelWF cfg.numerics (renderChannel cfg inp ch).ch := by
  by_cases hr : Renders ch.cs
  · simp only [renderChannel, if_pos hr]
    exact ⟨oscStep_wf hc _ _ (resolve_wf hc h.1), h.2⟩
  · rw [renderChannel_of_not hr]
    exact h

/-! ### What the engine keeps, for any predicate that the channel's operations keep -/

/-- A predicate on channels that a trigger establishes, that a tick and a render keep, and that bounds the
whole-number fields. -/
structure ChannelInv (cfg : Config) (Q : Channel → Prop) : Prop where
  triggered : ∀ inp n r0 music, n ≤ 63 → r0 ≤ 31 → Q (triggeredChannel inp n r0 music)
  ticked    : ∀ inp ch, Q ch → Q (channelTick inp ch)
  rendered  : ∀ inp ch, Q ch → Q (renderChannel cfg inp ch).ch
  control   : ∀ ch, Q ch → ChannelControlWF ch

/-- The whole-number fields stay well formed by themselves. -/
theorem channelControl_inv (cfg : Config) : ChannelInv cfg ChannelControlWF :=
  ⟨fun inp _ _ music hn hr => triggeredChannel_control inp music hn hr, fun _ _ h => channelTick_control h,
    fun _ _ h => renderChannel_control cfg h, fun _ h => h⟩

/-- All of a channel stays well formed, on every carrier (10_state.md R55). -/
theorem channelWF_inv {cfg : Config} (hc : cfg.WF) :
    ChannelInv cfg (ChannelWF cfg.numerics) :=
  ⟨fun inp _ _ music hn hr => triggeredChannel_wf _ inp music hn hr, fun _ _ h => channelTick_wf h,
    fun _ _ h => renderChannel_wf hc h, fun _ h => ⟨h.1.1, h.2.1⟩⟩

/-- The engine whose channels meet `Q`: `EngineWF` and `EngineControlWF` are this at their `Q`. -/
abbrev EngineOk (Q : Channel → Prop) (cfg : Config) (e : Engine) : Prop :=
  ((∀ c : ChanId, Q (bankGet e.ch c)) ∧ ScalarsWF cfg e.toSnapshot) ∧ 0 ≤ e.pullAcc

/-- WF gives its own part on the whole-number fields. -/
theorem engineControlWF_of_wf {cfg : Config} {e : Engine} (h : EngineWF cfg e) : EngineControlWF cfg e :=
  ⟨⟨fun c => ⟨(h.1.1 c).1.1, (h.1.1 c).2.1⟩, h.1.2⟩, h.2⟩

/-- The invariant gives its part on the whole-number fields. -/
theorem controlInv_of_machineInv {s : State} (h : MachineInv s) : ControlInv s :=
  ⟨h.1, engineControlWF_of_wf h.2.1, h.2.2⟩

theorem bankSet_ok {Q : Channel → Prop} {b : Bank} (h : ∀ c : ChanId, Q (bankGet b c)) (c : ChanId)
    {ch : Channel} (hc : Q ch) : ∀ d : ChanId, Q (bankGet (bankSet b c ch) d) := by
  intro d
  by_cases hd : d = c
  · rw [hd, bankGet_bankSet_self]
    exact hc
  · rw [bankGet_bankSet_of_ne b ch hd]
    exact h d

/-! ### Dispatch -/

/-- What the entries of a dispatch may change: the channels, and the least speed. -/
structure DispatchKept (Q : Channel → Prop) (e : Engine) (d : Dispatching) : Prop where
  scalars : d.eng = { e with ch := d.eng.ch }
  chans   : (∀ c : ChanId, Q (bankGet e.ch c)) → ∀ c : ChanId, Q (bankGet d.eng.ch c)
  speed   : ∀ k, d.m = some k → 1 ≤ k ∧ k ≤ 255

theorem playEntry_kept {cfg : Config} {Q : Channel → Prop} (hQ : ChannelInv cfg Q) {e : Engine}
    {d : Dispatching} (inp : Inputs) (p : Nat) (c : ChanId) (h : DispatchKept Q e d) :
    DispatchKept Q e (playEntry inp p c d) := by
  unfold playEntry
  split_ifs with he
  · exact h
  · have hn := (entryInstr (patEntry inp p c)).isLt
    have hq := hQ.triggered inp (entryInstr (patEntry inp p c)).toNat 0 true (by omega) (by omega)
    refine ⟨?_, fun hch => bankSet_ok (h.chans hch) c hq, ?_⟩
    · simp only [patPlay, Engine.setChan]
      rw [h.scalars]
    · intro k hk
      simp only [patPlay, Option.some.injEq] at hk
      have hs := (hQ.control _ hq).1.2.2.2.1
      subst hk
      unfold leastSpeed
      cases hm : d.m with
      | none => exact ⟨by dsimp only; omega, hs.2.2⟩
      | some j =>
        have := h.speed j hm
        dsimp only
        split_ifs
        · exact this
        · omega

/-- The four entries change the channels only, and the least speed lies in 1..255
(42_tick_scheduler.md R159). -/
theorem playEntries_kept {cfg : Config} {Q : Channel → Prop} (hQ : ChannelInv cfg Q) (inp : Inputs)
    (e : Engine) : DispatchKept Q e (playEntries inp e) :=
  playEntry_kept hQ inp _ 3 (playEntry_kept hQ inp _ 2 (playEntry_kept hQ inp _ 1
    (playEntry_kept hQ inp _ 0 ⟨rfl, id, by simp⟩)))

/-- DISPATCH keeps the engine's invariant (42_tick_scheduler.md R159). -/
theorem dispatch_ok {cfg : Config} {Q : Channel → Prop} (hQ : ChannelInv cfg Q) {inp : Inputs} {e : Engine}
    (hch : ∀ c : ChanId, Q (bankGet e.ch c)) (hp : e.musicPattern ≤ 63) (hl : e.musicLoopStart ≤ 63)
    (hm : e.musicMask ≤ 15) (ht : e.tickAcc < cfg.samplesPerTick) (hpa : 0 ≤ e.pullAcc) :
    EngineOk Q cfg (dispatch inp e) := by
  have hk := playEntries_kept hQ inp e
  have hr : EngineOk Q cfg (reloadMusic (playEntries inp e)) := by
    have hsp : 1 ≤ (playEntries inp e).m.getD 1 ∧ (playEntries inp e).m.getD 1 ≤ 255 := by
      cases hd : (playEntries inp e).m with
      | none => simp
      | some k => simpa using hk.speed k hd
    unfold reloadMusic
    rw [hk.scalars]
    refine ⟨⟨hk.chans hch, hp, ⟨?_, ?_⟩, hsp, hl, hm, ht⟩, hpa⟩
    · show 1 ≤ 32 * (playEntries inp e).m.getD 1
      omega
    · show 32 * (playEntries inp e).m.getD 1 ≤ 8160
      omega
  unfold dispatch
  generalize reloadMusic (playEntries inp e) = r at hr
  obtain ⟨⟨hrc, hrp, hrt, hrs, hrl, hrm, hra⟩, hrpa⟩ := hr
  have hmark : EngineOk Q cfg (applyMark (patEntry inp e.musicPattern 0) r) := by
    unfold applyMark
    split_ifs
    · exact ⟨⟨hrc, hrp, hrt, hrs, hrp, hrm, hra⟩, hrpa⟩
    · exact ⟨⟨hrc, hrp, hrt, hrs, hrl, hrm, hra⟩, hrpa⟩
  generalize applyMark (patEntry inp e.musicPattern 0) r = q at hmark
  obtain ⟨⟨hqc, hqp, hqt, hqs, hql, hqm, hqa⟩, hqpa⟩ := hmark
  unfold applyAdvance patNext
  split_ifs with h1 h2 h3
  · exact ⟨⟨hqc, hql, hqt, hqs, hql, hqm, hqa⟩, hqpa⟩
  · exact ⟨⟨hqc, hqp, hqt, hqs, hql, hqm, hqa⟩, hqpa⟩
  · exact ⟨⟨hqc, hqp, hqt, hqs, hql, hqm, hqa⟩, hqpa⟩
  · exact ⟨⟨hqc, by dsimp only; omega, hqt, hqs, hql, hqm, hqa⟩, hqpa⟩

/-! ### Ticks and samples -/

theorem musicTick_ok {cfg : Config} {Q : Channel → Prop} (hQ : ChannelInv cfg Q) {inp : Inputs} {e : Engine}
    (h : EngineOk Q cfg e) : EngineOk Q cfg (musicTick inp e) := by
  obtain ⟨⟨hc, hp, ht, hs, hl, hm, ha⟩, hpa⟩ := h
  unfold musicTick
  split_ifs with h1 h2
  · exact dispatch_ok hQ hc hp hl hm ha hpa
  · exact ⟨⟨hc, hp, by dsimp only; omega, hs, hl, hm, ha⟩, hpa⟩
  · exact ⟨⟨hc, hp, ht, hs, hl, hm, ha⟩, hpa⟩

theorem channelTicks_ok {cfg : Config} {Q : Channel → Prop} (hQ : ChannelInv cfg Q) {inp : Inputs}
    {e : Engine} (h : EngineOk Q cfg e) : EngineOk Q cfg (channelTicks inp e) := by
  obtain ⟨⟨hc, hrest⟩, hpa⟩ := h
  refine ⟨⟨(forall_chan_iff (p := Q) _).2 ?_, hrest⟩, hpa⟩
  have := (forall_chan_iff (p := Q) _).1 hc
  exact ⟨hQ.ticked _ _ this.1, hQ.ticked _ _ this.2.1, hQ.ticked _ _ this.2.2.1, hQ.ticked _ _ this.2.2.2⟩

theorem tickPart_ok {cfg : Config} {Q : Channel → Prop} (hQ : ChannelInv cfg Q)
    (hcfg : 0 < cfg.samplesPerTick) {inp : Inputs} {e : Engine} (h : EngineOk Q cfg e) :
    EngineOk Q cfg (tickPart cfg inp e) := by
  have ht : EngineOk Q cfg (if e.tickAcc = 0 then tick inp e else e) := by
    split_ifs
    · exact channelTicks_ok hQ (musicTick_ok hQ h)
    · exact h
  unfold tickPart
  generalize (if e.tickAcc = 0 then tick inp e else e) = q at ht
  obtain ⟨⟨hqc, hqp, hqt, hqs, hql, hqm, hqa⟩, hqpa⟩ := ht
  exact ⟨⟨hqc, hqp, hqt, hqs, hql, hqm, Nat.mod_lt _ hcfg⟩, hqpa⟩

theorem renderPart_ok {cfg : Config} {Q : Channel → Prop} (hQ : ChannelInv cfg Q) {inp : Inputs}
    {e : Engine} (h : EngineOk Q cfg e) : EngineOk Q cfg (renderPart cfg inp e).eng := by
  obtain ⟨⟨hc, hrest⟩, hpa⟩ := h
  refine ⟨⟨(forall_chan_iff (p := Q) _).2 ?_, hrest⟩, hpa⟩
  have := (forall_chan_iff (p := Q) _).1 hc
  exact ⟨hQ.rendered _ _ this.1, hQ.rendered _ _ this.2.1, hQ.rendered _ _ this.2.2.1,
    hQ.rendered _ _ this.2.2.2⟩

/-- A well-formed state's cursors address their memories (20_memory.md R68). -/
theorem cursorsOk_of_ok {cfg : Config} {Q : Channel → Prop} (hQ : ChannelInv cfg Q) {e : Engine}
    (h : EngineOk Q cfg e) : CursorsOk e := by
  obtain ⟨⟨hc, hp, -⟩, -⟩ := h
  have key : ∀ ch : Channel, Q ch → CursorOk ch.cs := by
    intro ch hq
    obtain ⟨⟨hs, hr, hl, -⟩, -⟩ := hQ.control ch hq
    by_cases hi : ch.cs.sfxId = -1
    · exact .inl hi
    · exact .inr ⟨by omega, hr.2 hi, hl⟩
  have := (forall_chan_iff (p := Q) _).1 hc
  exact ⟨⟨key _ this.1, key _ this.2.1, key _ this.2.2.1, key _ this.2.2.2⟩, hp⟩

/-- What a dispatch, a tick and a render leave alone whatever the state: `music_mask` and `pull_acc`. -/
theorem musicTick_mask_pull (inp : Inputs) (e : Engine) :
    (musicTick inp e).musicMask = e.musicMask ∧ (musicTick inp e).pullAcc = e.pullAcc := by
  unfold musicTick
  split_ifs with h1 h2
  · have hk := (playEntries_kept (channelControl_inv Config.default) inp
      { e with musicTickTimer := e.musicTickTimer - 1 }).scalars
    unfold dispatch applyAdvance patNext applyMark reloadMusic
    rw [hk]
    split_ifs <;> exact ⟨rfl, rfl⟩
  · exact ⟨rfl, rfl⟩
  · exact ⟨rfl, rfl⟩

theorem tickPart_mask_pull (cfg : Config) (inp : Inputs) (e : Engine) :
    (tickPart cfg inp e).musicMask = e.musicMask ∧ (tickPart cfg inp e).pullAcc = e.pullAcc := by
  unfold tickPart
  dsimp only
  split_ifs
  · exact musicTick_mask_pull inp e
  · exact ⟨rfl, rfl⟩

/-- A sample is one of three things (45_sample_mixer_output.md R227; log 16). -/
theorem sampleEngine_cases (cfg : Config) (inp : Inputs) (e : Engine) :
    (Muted inp ∧ sampleEngine cfg inp e = .next ⟨e, 0⟩) ∨
    (¬ Muted inp ∧ CursorsOk e ∧
      sampleEngine cfg inp e = .next (renderPart cfg inp (tickPart cfg inp e))) ∨
    (¬ Muted inp ∧ ¬ CursorsOk e ∧ sampleEngine cfg inp e = .refused .cursorOutsideMemory) := by
  unfold sampleEngine
  split_ifs with h1 h2
  · exact .inl ⟨h1, rfl⟩
  · exact .inr (.inl ⟨h1, h2, rfl⟩)
  · exact .inr (.inr ⟨h1, h2, rfl⟩)

/-- From a well-formed state a sample completes and keeps the invariant, `music_mask` and `pull_acc`. -/
theorem sampleEngine_ok {cfg : Config} {Q : Channel → Prop} (hQ : ChannelInv cfg Q)
    (hcfg : 0 < cfg.samplesPerTick) (inp : Inputs) {e : Engine} (h : EngineOk Q cfg e) :
    ∃ p, sampleEngine cfg inp e = .next p ∧ EngineOk Q cfg p.eng ∧ p.eng.musicMask = e.musicMask ∧
      p.eng.pullAcc = e.pullAcc := by
  rcases sampleEngine_cases cfg inp e with ⟨-, hq⟩ | ⟨-, -, hq⟩ | ⟨-, hn, -⟩
  · exact ⟨_, hq, h, rfl, rfl⟩
  · exact ⟨_, hq, renderPart_ok hQ (tickPart_ok hQ hcfg h), (tickPart_mask_pull cfg inp e).1,
      (tickPart_mask_pull cfg inp e).2⟩
  · exact absurd (cursorsOk_of_ok hQ h) hn

/-- From a well-formed state GENERATE completes with as many samples as asked for and keeps the
invariant. -/
theorem generateEngine_ok {cfg : Config} {Q : Channel → Prop} (hQ : ChannelInv cfg Q)
    (hcfg : 0 < cfg.samplesPerTick) (inp : Inputs) (k : Nat) {e : Engine} (h : EngineOk Q cfg e) :
    ∃ b, generateEngine cfg inp k e = .next b ∧ EngineOk Q cfg b.eng ∧ b.eng.musicMask = e.musicMask ∧
      b.eng.pullAcc = e.pullAcc ∧ b.pcm.length = k := by
  induction k generalizing e with
  | zero => exact ⟨_, rfl, h, rfl, rfl, rfl⟩
  | succ k ih =>
    obtain ⟨p, hp, hwf, hm, hpa⟩ := sampleEngine_ok hQ hcfg inp h
    obtain ⟨b, hb, hbwf, hbm, hbpa, hl⟩ := ih hwf
    refine ⟨⟨b.eng, p.pcm :: b.pcm⟩, ?_, hbwf, hbm.trans hm, hbpa.trans hpa, by simp [hl]⟩
    simp only [generateEngine, hp, hb]

end Sys2Proof.Machine
end

