-- ==== Sys2Proof/Laws/PerInstr.lean ====
section
/-! SUPPORT. The per-instruction family FormatKept: what a unit fetches for an instruction has the format
that spec/opcode_table.json gives the instruction's row. One lemma per constructor of Instr. -/

namespace Sys2Proof.Laws.FormatKept

/-- The encoder writes an instruction in its row's format, under every WAVE_MAP. -/
def Statement (i : Instr) : Prop := ∀ m : WaveMap, (encode m i).format = i.format

theorem effNone : Statement .effNone := fun _ => rfl
theorem effSlide : Statement .effSlide := fun _ => rfl
theorem effVibrato : Statement .effVibrato := fun _ => rfl
theorem effDrop : Statement .effDrop := fun _ => rfl
theorem effFadeIn : Statement .effFadeIn := fun _ => rfl
theorem effFadeOut : Statement .effFadeOut := fun _ => rfl
theorem effRsv6 : Statement .effRsv6 := fun _ => rfl
theorem effRsv7 : Statement .effRsv7 := fun _ => rfl
theorem waveTri : Statement .waveTri := fun _ => rfl
theorem waveTilt : Statement .waveTilt := fun _ => rfl
theorem waveSaw : Statement .waveSaw := fun _ => rfl
theorem waveSquare : Statement .waveSquare := fun _ => rfl
theorem wavePulse : Statement .wavePulse := fun _ => rfl
theorem waveOrgan : Statement .waveOrgan := fun _ => rfl
theorem wavePhaser : Statement .wavePhaser := fun _ => rfl
theorem waveNoise : Statement .waveNoise := fun _ => rfl
theorem patPlay (n : BitVec 6) : Statement (.patPlay n) := fun _ => rfl
theorem patSilent : Statement .patSilent := fun _ => rfl
theorem patLoopStart : Statement .patLoopStart := fun _ => rfl
theorem patLoopBack : Statement .patLoopBack := fun _ => rfl
theorem patStop : Statement .patStop := fun _ => rfl
theorem patNext : Statement .patNext := fun _ => rfl
theorem note (key : BitVec 6) (eff vol wave : BitVec 3) : Statement (.note key eff vol wave) := fun _ => rfl
theorem hdr (speed loopStart loopEnd : Byte) : Statement (.hdr speed loopStart loopEnd) := fun _ => rfl
theorem reset : Statement .reset := fun _ => rfl
theorem trigger (n : Int) (chan r0 : Option Int) : Statement (.trigger n chan r0) := fun _ => rfl
theorem musicStart (p mask : Int) : Statement (.musicStart p mask) := fun _ => rfl
theorem musicStop : Statement .musicStop := fun _ => rfl
theorem sample : Statement .sample := fun _ => rfl
theorem generate (count : Int) : Statement (.generate count) := fun _ => rfl
theorem update : Statement .update := fun _ => rfl
theorem getState : Statement .getState := fun _ => rfl
theorem setState (x : Snapshot) : Statement (.setState x) := fun _ => rfl

end Sys2Proof.Laws.FormatKept
end

