-- ==== Sys2Proof/Tests/Slice0.lean ====
section
/-! SUPPORT. The model's own tests: ill-formed operands refused, every constructor decoded from a word of
spec/95_test_vectors.md or of the encoding tables, single steps of the vectors, and for every obligation
with hypotheses a state that meets them. -/

namespace Sys2Proof.Tests

-- One test after another: the kernel's evaluations side by side would take too many threads.
set_option Elab.async false

open Sys2Proof.Machine Sys2Proof.Claims

/-! ### Helpers -/

/-- The next state of an outcome, if it has one. -/
def nextOf (o : Host.Outcome State Fault Refusal) : Option State :=
  match o with
  | .next t => some t
  | _ => none

theorem eq_next {o : Host.Outcome State Fault Refusal} {t : State} (h : nextOf o = some t) : o = .next t := by
  cases o with
  | next u => rw [nextOf, Option.some.injEq] at h; rw [h]
  | fault f => cases h
  | refused r => cases h

/-- The state after reset with some bytes in the memories. -/
def withBytes (instr pat : Memory) : State :=
  { State.reset with inp := { Inputs.reset with instr := instr, pat := pat } }

/-- A part of the next state. -/
def after {α : Type} (o : Host.Outcome State Fault Refusal) (f : State → α) : Option α := (nextOf o).map f

/-- The result of two instructions in a row. -/
def afterTwo {α : Type} (i j : Instr) (s : State) (f : State → α) : Option α :=
  (nextOf (exec i s)).bind fun t => after (exec j t) f

/-- The state after reset with another ChannelState in channel 0. -/
def withCs (cs : ChannelState) : State :=
  { State.reset with eng := Engine.reset.setChan 0 { channelReset with cs := cs } }

/-- A channel in the middle of a row: the RESOLVE vector of 95_test_vectors.md §2.5. -/
def midRow (tickCounter : Nat) : ChannelState :=
  { channelStateReset with
    sfxId := 1, currentVol := 7, currentPitchVal := 24, slideStartPitch := 12, row := 1, lastNoteIdx := 0,
    tickCounter := tickCounter, speed := 4 }

/-! ### WellFormed refuses each ill-formed operand -/

theorem test_wf_trigger_slot : ¬ Instr.WellFormed Config.default (.trigger 64 none none) ∧
    ¬ Instr.WellFormed Config.default (.trigger (-1) none none) := by decide

theorem test_wf_trigger_row : ¬ Instr.WellFormed Config.default (.trigger 0 none (some 32)) ∧
    ¬ Instr.WellFormed Config.default (.trigger 0 none (some (-1))) := by decide

theorem test_wf_trigger_channel_free : Instr.WellFormed Config.default (.trigger 63 (some 7) (some 31)) := by
  decide

theorem test_wf_music_start : ¬ Instr.WellFormed Config.default (.musicStart 64 0) ∧
    ¬ Instr.WellFormed Config.default (.musicStart (-1) 0) ∧
    ¬ Instr.WellFormed Config.default (.musicStart 0 16) ∧
    ¬ Instr.WellFormed Config.default (.musicStart 0 (-1)) := by decide

theorem test_wf_generate : ¬ Instr.WellFormed Config.default (.generate (-1)) := by decide

theorem test_wf_channel_fields : ∀ cs ∈ ([
    { channelStateReset with sfxId := 64 }, { channelStateReset with sfxId := -2 },
    { channelStateReset with phi := 1 }, { channelStateReset with phi := -1 / 2 },
    { channelStateReset with noiseSample := 0 }, { channelStateReset with currentVol := 8 },
    { channelStateReset with currentVol := 1 / 2 }, { channelStateReset with currentPitchVal := 64 },
    { channelStateReset with slideStartPitch := -1 }, { channelStateReset with vibPhase := -1 },
    { channelStateReset with row := 33 }, { channelStateReset with sfxId := 0, row := 32 },
    { channelStateReset with lastNoteIdx := 32 }, { channelStateReset with lastNoteIdx := -2 },
    { channelStateReset with tickCounter := 0 }, { channelStateReset with tickCounter := 2 },
    { channelStateReset with speed := 0 }, { channelStateReset with speed := 256 },
    { channelStateReset with loopStart := 256 }, { channelStateReset with loopEnd := 256 },
    { channelStateReset with loopActive := true }] : List ChannelState),
    ¬ ChannelStateWF Numerics.default cs := by
  decide +kernel

theorem test_wf_scalar_fields : ∀ x ∈ ([
    { Engine.reset.toSnapshot with musicPattern := 64 }, { Engine.reset.toSnapshot with musicTickTimer := 0 },
    { Engine.reset.toSnapshot with musicTickTimer := 8161 }, { Engine.reset.toSnapshot with musicSpeed := 0 },
    { Engine.reset.toSnapshot with musicSpeed := 256 }, { Engine.reset.toSnapshot with musicLoopStart := 64 },
    { Engine.reset.toSnapshot with musicMask := 16 }, { Engine.reset.toSnapshot with tickAcc := 183 }] :
    List Snapshot), ¬ Instr.WellFormed Config.default (.setState x) := by
  simp only [Instr.WellFormed, ← snapshotOk_iff]
  decide +kernel

theorem test_wf_child_checked : 
    ¬ ChannelWF Numerics.default { channelReset with child := { channelStateReset with speed := 0 } } := by
  decide +kernel

/-- Configurations outside the domains of 00_scope.md R7 and R9. -/
theorem test_wf_config : ∀ cfg ∈ ([
    { Config.default with nativeRate := 2525 }, { Config.default with samplesPerTick := 0 },
    { Config.default with pullCap := 0 }, { Config.default with pcmScale := 0 },
    { Config.default with waveMap := { WaveMap.default with w1 := .tri } },
    { Config.default with numerics := { Numerics.default with freqTolerance := 0 } },
    { Config.default with numerics := { Numerics.default with freqTolerance := 20000 } }] : List Config),
    ¬ cfg.WF := by decide +kernel

/-- The least NATIVE_RATE above every reachable frequency, and a rounding instance. -/
theorem test_wf_config_edges : ({ Config.default with nativeRate := 2526 } : Config).WF ∧
    ({ Config.default with numerics := { Numerics.default with carrier := .rounding 1 } } : Config).WF := by
  decide +kernel

theorem test_wf_reset_snapshot : Instr.WellFormed Config.default (.setState Engine.reset.toSnapshot) :=
  (snapshotOk_iff _ _).1 (by decide +kernel)

/-! ### Decoding: the words of 95_test_vectors.md §2.1 and of 30_encoding.md -/

/-- A note row under the default WAVE_MAP. -/
def row (b0 b1 : Byte) : Except DecodeError Instr := decode WaveMap.default (.row b0 b1)

theorem test_decode_note_square : row 0x18#8 0x74#8 = .ok (.note 24#6 0#3 5#3 3#3) := by decide
theorem test_decode_note_saw : row 0x0C#8 0x5C#8 = .ok (.note 12#6 0#3 7#3 2#3) := by decide
theorem test_decode_note_slide : row 0x18#8 0x5D#8 = .ok (.note 24#6 1#3 7#3 2#3) := by decide
theorem test_decode_note_fade_out : row 0x58#8 0x1D#8 = .ok (.note 24#6 5#3 7#3 0#3) := by decide
theorem test_decode_note_noise : row 0x3F#8 0xFC#8 = .ok (.note 63#6 0#3 7#3 7#3) := by decide
theorem test_decode_note_all_ones : row 0xFF#8 0xFF#8 = .ok (.note 63#6 7#3 7#3 7#3) := by decide
theorem test_decode_note_bit7_ignored : row 0x80#8 0x00#8 = .ok (.note 0#6 0#3 0#3 0#3) := by decide
theorem test_decode_note_effect_only : row 0x40#8 0x03#8 = .ok (.note 0#6 7#3 0#3 0#3) := by decide

/-- The effect bits of a row (30_encoding.md R89). -/
def eff (b0 b1 : Byte) : Except DecodeError Instr := decode WaveMap.default (.effectBits b0 b1)

theorem test_decode_effects : eff 0x18#8 0x74#8 = .ok .effNone ∧ eff 0x18#8 0x5D#8 = .ok .effSlide ∧
    eff 0x00#8 0x02#8 = .ok .effVibrato ∧ eff 0x18#8 0x5F#8 = .ok .effDrop ∧
    eff 0x58#8 0x1C#8 = .ok .effFadeIn ∧ eff 0x58#8 0x1D#8 = .ok .effFadeOut ∧
    eff 0x40#8 0x02#8 = .ok .effRsv6 ∧ eff 0xFF#8 0xFF#8 = .ok .effRsv7 := by decide

/-- The waveform bits of a row (30_encoding.md R90). -/
def wav (b1 : Byte) : Except DecodeError Instr := decode WaveMap.default (.waveBits b1)

theorem test_decode_waves : wav 0x1D#8 = .ok .waveTri ∧ wav 0x3F#8 = .ok .waveTilt ∧
    wav 0x5C#8 = .ok .waveSaw ∧ wav 0x74#8 = .ok .waveSquare ∧ wav 0x80#8 = .ok .wavePulse ∧
    wav 0xA0#8 = .ok .waveOrgan ∧ wav 0xC0#8 = .ok .wavePhaser ∧ wav 0xFC#8 = .ok .waveNoise := by decide

theorem test_decode_wave_map_followed :
    decode { WaveMap.default with w0 := .noise, w7 := .tri } (.waveBits 0x1D#8) = .ok .waveNoise := by decide

theorem test_decode_entries : decode WaveMap.default (.entry 0x05#8) = .ok (.patPlay 5#6) ∧
    decode WaveMap.default (.entry 0x85#8) = .ok (.patPlay 5#6) ∧
    decode WaveMap.default (.entry 0x40#8) = .ok .patSilent ∧
    decode WaveMap.default (.entry 0x7F#8) = .ok .patSilent ∧
    decode WaveMap.default (.entry 0x80#8) = .ok (.patPlay 0#6) := by decide

theorem test_decode_markers : decode WaveMap.default (.entryMark 0x85#8) = .ok .patLoopStart ∧
    decode WaveMap.default (.entryMark 0x05#8) = .error .noMarker ∧
    decode WaveMap.default (.entryAdvance 0x86#8 0x40#8) = .ok .patLoopBack ∧
    decode WaveMap.default (.entryAdvance 0xFF#8 0xC0#8) = .ok .patLoopBack ∧
    decode WaveMap.default (.entryAdvance 0x40#8 0xC0#8) = .ok .patStop ∧
    decode WaveMap.default (.entryAdvance 0x06#8 0x40#8) = .ok .patNext := by decide

theorem test_decode_header : decode WaveMap.default (.header 0x04#8 0x00#8 0x02#8) = .ok (.hdr 4#8 0#8 2#8) := by
  decide

theorem test_decode_calls : decodeCall ⟨0, [], none⟩ = .ok .reset ∧
    decodeCall ⟨1, [some 5, none, some 3], none⟩ = .ok (.trigger 5 none (some 3)) ∧
    decodeCall ⟨2, [some 3, some 15], none⟩ = .ok (.musicStart 3 15) ∧
    decodeCall ⟨3, [], none⟩ = .ok .musicStop ∧ decodeCall ⟨4, [], none⟩ = .ok .sample ∧
    decodeCall ⟨5, [some 100], none⟩ = .ok (.generate 100) ∧ decodeCall ⟨6, [], none⟩ = .ok .update ∧
    decodeCall ⟨7, [], none⟩ = .ok .getState := by decide

theorem test_decode_set_state (x : Snapshot) : decodeCall ⟨8, [], some x⟩ = .ok (.setState x) := rfl

theorem test_decode_call_refused : decodeCall ⟨9, [], none⟩ = .error (.unknownOperation 9) ∧
    decodeCall ⟨4, [some 1], none⟩ = .error (.operandShape 4) ∧
    decodeCall ⟨1, [some 64, none, none], none⟩ = .error (.operandDomain "TRIGGER") := by decide

/-- The table's numbering: byte 0 is bits 7 to 0, byte 1 bits 15 to 8 (spec/opcode_table.json). -/
theorem test_table_words : decodeTableWord 16 0x7C18 = some .waveSquare ∧
    decodeTableWord 16 0x1D58 = some .effFadeOut ∧ decodeTableWord 16 0x5D18 = some (.note 24#6 1#3 7#3 2#3) ∧
    decodeTableWord 8 0x05 = some (.patPlay 5#6) ∧ decodeTableWord 8 0x85 = some .patLoopStart ∧
    decodeTableWord 24 0x020004 = some (.hdr 4#8 0#8 2#8) ∧
    decodeTableWord 544 (0x020004 * 2 ^ 520) = some (.hdr 4#8 0#8 2#8) := by decide +kernel

/-- The step after withFetchWord fetches the placed row: `18 74` on channel 0 (95_test_vectors.md P1). -/
theorem test_placed_row_runs :
    after (step (State.reset.withFetchWord 16 0x7418))
      (fun t => (t.eng.ch.c0.cs.currentVol, t.eng.ch.c0.cs.currentPitchVal, t.result)) =
    some (5, 24, .pcm 11702) := by decide +kernel

/-- The step after withFetchWord dispatches the placed entry: slot 5 on channel 0, and its marker. -/
theorem test_placed_entry_runs :
    after (step (State.reset.withFetchWord 8 0x85))
      (fun t => (t.eng.ch.c0.cs.sfxId, t.eng.ch.c0.isMusic, t.eng.ch.c1.cs.sfxId, t.eng.musicPattern)) =
    some (5, true, -1, 1) := by decide +kernel

/-- The step after withFetchWord triggers with the placed header. -/
theorem test_placed_header_runs :
    after (step (State.reset.withFetchWord 24 0x020004))
      (fun t => (t.eng.ch.c0.cs.speed, t.eng.ch.c0.cs.loopEnd, t.eng.ch.c0.cs.loopActive)) =
    some (4, 2, true) := by decide +kernel

/-! ### Effects: the table of 95_test_vectors.md §2.5 -/

/-- The pair an effect leaves, with `tick_counter` as given. -/
def pair (i : Instr) (tickCounter : Nat) : Option (F × F) :=
  after (exec i (withCs (midRow tickCounter))) fun t => (t.work.pitch, t.work.vol)

theorem test_none_pair : pair .effNone 2 = some (24, 7) := by decide +kernel
theorem test_rsv6_pair : pair .effRsv6 2 = some (24, 7) := by decide +kernel
theorem test_rsv7_pair : pair .effRsv7 1 = some (24, 7) := by decide +kernel
theorem test_slide_starts_at_origin : pair .effSlide 4 = some (12, 7) := by decide +kernel
theorem test_slide_midpoint : pair .effSlide 2 = some (18, 7) := by decide +kernel
theorem test_drop_starts_at_origin : pair .effDrop 4 = some (12, 7) := by decide +kernel
theorem test_drop_quarter : pair .effDrop 1 = some (3, 7) := by decide +kernel
theorem test_fade_in_starts_silent : pair .effFadeIn 4 = some (24, 0) := by decide +kernel
theorem test_fade_in_last : pair .effFadeIn 1 = some (24, 21 / 4) := by decide +kernel
theorem test_fade_out_starts_full : pair .effFadeOut 4 = some (24, 7) := by decide +kernel
theorem test_fade_out_last : pair .effFadeOut 1 = some (24, 7 / 4) := by decide +kernel

/-- Vibrato at phase 0 yields the pitch unbent (44_effect_modulator.md R203: sample 0 of §2.5). -/
theorem test_vibrato_first_sample : after (exec .effVibrato (withCs (midRow 2))) (fun t => t.work.pitch) = some 24 := by
  show some ((24 : F) + sin Numerics.default 0 * (1 / 4)) = some 24
  rw [sin_zero]
  norm_num

/-! ### Oscillators: the table of 95_test_vectors.md §2.2 -/

/-- The sample a generator leaves at a phase. -/
def oscAt (i : Instr) (phi : F) : Option F :=
  after (exec i (withCs { channelStateReset with phi := phi })) fun t => t.work.osc

theorem test_tri_values : oscAt .waveTri 0 = some (-1) ∧ oscAt .waveTri (1 / 2) = some 1 ∧
    oscAt .waveTri (15 / 16) = some (-3 / 4) := by decide +kernel
theorem test_tilt_values : oscAt .waveTilt (1 / 8) = some (-5 / 7) ∧ oscAt .waveTilt (7 / 8) = some 1 ∧
    oscAt .waveTilt (15 / 16) = some 0 := by decide +kernel
theorem test_saw_values : oscAt .waveSaw 0 = some (-1) ∧ oscAt .waveSaw (99 / 100) = some (49 / 50) := by
  decide +kernel
theorem test_square_values : oscAt .waveSquare (3 / 8) = some 1 ∧ oscAt .waveSquare (1 / 2) = some (-1) := by
  decide +kernel
theorem test_pulse_values : oscAt .wavePulse (1 / 8) = some 1 ∧ oscAt .wavePulse (1 / 4) = some (-1) := by
  decide +kernel
theorem test_organ_values : oscAt .waveOrgan 0 = some (-3 / 2) ∧ oscAt .waveOrgan (1 / 4) = some (1 / 2) ∧
    oscAt .waveOrgan (15 / 16) = some (-1) := by decide +kernel
theorem test_phaser_is_the_free_function : oscAt .wavePhaser (1 / 8) = some (Config.freePhaser 0 (1 / 8)) := rfl

/-- The noise vector of §2.2: at 99/100 the phase step wraps, the sample is the one latched before. -/
theorem test_noise_wraps :
    after (exec .waveNoise (withCs { channelStateReset with phi := 999 / 1000, lfsr := 0x5205#15 }))
      (fun t => (t.work.osc, t.eng.ch.c0.cs.lfsr, t.eng.ch.c0.cs.noiseSample)) =
    some (1, 0x6902#15, -1) := by decide +kernel

theorem test_noise_without_wrap :
    after (exec .waveNoise (withCs { channelStateReset with phi := 1 / 2, lfsr := 0x5205#15 }))
      (fun t => (t.work.osc, t.eng.ch.c0.cs.lfsr, t.eng.ch.c0.cs.noiseSample)) =
    some (1, 0x5205#15, 1) := by decide +kernel

theorem test_lfsr_steps : lfsrStep 0x5205#15 = 0x6902#15 ∧ lfsrStep 0x6902#15 = 0x7481#15 ∧
    lfsrStep 0x7481#15 = 0x7A40#15 ∧ lfsrStep 0x7FFF#15 = 0x3FFF#15 ∧ lfsrStep 0x0001#15 = 0x4000#15 ∧
    lfsrStep 0x0002#15 = 0x4001#15 ∧ lfsrStep 0x0003#15 = 0x0001#15 := by decide

/-! ### Rows, headers, patterns -/

/-- A row wraps at the end of its loop: rows 30..31 of 95_test_vectors.md §2.3. -/
theorem test_note_wraps :
    after (exec (.note 24#6 1#3 7#3 2#3) (withCs { midRow 1 with row := 31, loopStart := 30, loopEnd := 32, loopActive := true }))
      (fun t => (t.eng.ch.c0.cs.row, t.eng.ch.c0.cs.lastNoteIdx, t.eng.ch.c0.cs.slideStartPitch, t.eng.ch.c0.effect)) =
    some (30, 31, 12, .slide) := by decide +kernel

/-- A row past 31 goes Idle, and a silent slide row moves the origin (95_test_vectors.md §2.3). -/
theorem test_note_ends :
    after (exec (.note 30#6 1#3 0#3 0#3) (withCs { midRow 1 with row := 31 }))
      (fun t => (t.eng.ch.c0.cs.sfxId, t.eng.ch.c0.cs.row, t.eng.ch.c0.cs.slideStartPitch)) =
    some (-1, 32, 30) := by decide +kernel

theorem test_hdr_floor_and_loop :
    after (exec (.hdr 0#8 5#8 5#8) (withCs (midRow 1)))
      (fun t => (t.eng.ch.c0.cs.speed, t.eng.ch.c0.cs.loopActive)) = some (1, false) ∧
    after (exec (.hdr 0xFF#8 0x1E#8 0x20#8) (withCs (midRow 1)))
      (fun t => (t.eng.ch.c0.cs.speed, t.eng.ch.c0.cs.loopActive)) = some (255, true) := by decide +kernel

theorem test_pat_play :
    after (exec (.patPlay 5#6) { withBytes [(405, 4)] [] with work := { Work.rest with chan := 2, minSpeed := some 9 } })
      (fun t => (t.eng.ch.c2.cs.sfxId, t.eng.ch.c2.cs.speed, t.eng.ch.c2.isMusic, t.work.minSpeed)) =
    some (5, 4, true, some 4) := by decide +kernel

theorem test_pat_silent : nextOf (exec .patSilent State.reset) = some State.reset := by decide +kernel

/-- The engine at pattern `p` with `music_loop_start = 2`. -/
def atPattern (p : Nat) : Engine :=
  { Engine.reset with musicPattern := p, musicLoopStart := 2, musicPlaying := true }

theorem test_pat_loop_start :
    after (exec .patLoopStart { State.reset with eng := atPattern 7 }) (fun t => t.eng.musicLoopStart) = some 7 := by
  decide +kernel
theorem test_pat_loop_back :
    after (exec .patLoopBack { State.reset with eng := atPattern 7 }) (fun t => t.eng.musicPattern) = some 2 := by
  decide +kernel
theorem test_pat_stop :
    after (exec .patStop { State.reset with eng := atPattern 7 }) (fun t => (t.eng.musicPlaying, t.eng.musicPattern)) =
      some (false, 7) := by decide +kernel
theorem test_pat_next :
    after (exec .patNext { State.reset with eng := atPattern 7 }) (fun t => t.eng.musicPattern) = some 8 ∧
    after (exec .patNext { State.reset with eng := atPattern 63 }) (fun t => (t.eng.musicPlaying, t.eng.musicPattern)) =
      some (false, 63) := by decide +kernel

/-- The dispatch of pattern 7 in the vectors of §2.3: speed, timer, loop start, pattern, playing. -/
def dispatched (bytes : List Byte) : Nat × Nat × Nat × Nat × Bool :=
  let e := dispatch { Inputs.reset with instr := [(133, 4), (269, 9)], pat := writeBytes [] 28 bytes } (atPattern 7)
  (e.musicSpeed, e.musicTickTimer, e.musicLoopStart, e.musicPattern, e.musicPlaying)

theorem test_dispatch_speeds : dispatched [0x01, 0x02, 0x03, 0x40] = (1, 32, 2, 8, true) ∧
    dispatched [0x01, 0x40, 0x03, 0x40] = (4, 128, 2, 8, true) ∧
    dispatched [0x40, 0x40, 0x40, 0x40] = (1, 32, 2, 8, true) := by decide +kernel

theorem test_dispatch_markers : dispatched [0x81, 0x40, 0x40, 0x40] = (4, 128, 7, 8, true) ∧
    dispatched [0x81, 0xC0, 0x40, 0x40] = (4, 128, 7, 7, true) ∧
    dispatched [0x01, 0x40, 0xC0, 0x40] = (4, 128, 2, 7, false) ∧
    dispatched [0x01, 0xC0, 0xC0, 0x40] = (4, 128, 2, 2, true) ∧
    dispatched [0x01, 0x40, 0x40, 0xC3] = (4, 128, 2, 8, true) := by decide +kernel

/-! ### Host operations -/

/-- Program P1's memory: row 0 of slot 0 is `18 74`, speed 1 (95_test_vectors.md P1). -/
def p1 : State := withBytes [(0, 0x18), (1, 0x74), (65, 0x01)] []

theorem test_p1_first_sample : afterTwo (.trigger 0 (some 0) (some 0)) .sample p1
    (fun t => (t.result, t.eng.ch.c0.cs.row, t.eng.ch.c0.cs.lastNoteIdx, t.eng.tickAcc)) =
    some (.pcm 11702, 1, 0, 1) := by decide +kernel

theorem test_p1_frame_of_trigger : after (exec (.trigger 0 (some 3) (some 0)) p1)
    (fun t => (t.result, t.eng.ch.c3.cs.sfxId, t.eng.ch.c0 == channelReset)) =
    some (.channel 3, 0, true) := by decide +kernel

/-- The first two samples of program P3 (95_test_vectors.md): square and triangle cancel, then 933. -/
theorem test_p3_two_samples :
    afterTwo (.musicStart 3 15) (.generate 2)
      (withBytes [(340, 0x18), (341, 0x7C), (405, 2), (408, 0x24), (409, 0x1C), (473, 3)]
        [(12, 0x85), (13, 6), (14, 0x40), (15, 0x40)])
      (fun t => (t.result, t.eng.musicPattern, t.eng.musicTickTimer, t.eng.musicSpeed, t.eng.musicLoopStart)) =
    some (.samples [0, 933], 4, 64, 2, 3) := by decide +kernel

theorem test_music_stop : after (exec .musicStop { State.reset with eng := atPattern 7 })
    (fun t => (t.eng.musicPlaying, t.eng.musicPattern)) = some (false, 7) := by decide +kernel

theorem test_generate_on_reset : after (exec (.generate 200) State.reset)
    (fun t => (t.result == .samples (List.replicate 200 0), t.eng == { Engine.reset with tickAcc := 17 })) =
    some (true, true) := by decide +kernel

theorem test_muted_sample : after (exec .sample { State.reset with inp := { Inputs.reset with volMusic := 0, volSfx := -3 } })
    (fun t => (t.result, t.eng == Engine.reset)) = some (.pcm 0, true) := by decide +kernel

theorem test_update_lengths : after (exec .update State.reset)
    (fun t => (t.eng.pullAcc, t.sink.map List.length)) = some (1 / 2, [367]) ∧
    after (exec .update { State.reset with eng := { Engine.reset with pullAcc := 1 / 2 } })
      (fun t => (t.eng.pullAcc, t.sink.map List.length)) = some (0, [368]) := by decide +kernel

theorem test_update_cap : after (exec .update { State.resetOf { Config.default with pullCap := 300 } with
      eng := { Engine.reset with pullAcc := 135 / 2 } })
    (fun t => (t.eng.pullAcc, t.sink.map List.length)) = some (135, [300]) := by decide +kernel

theorem test_reset_from_anywhere : after (exec .reset { State.reset with eng := { atPattern 7 with pullAcc := 3 } })
    (fun t => t.eng == Engine.reset) = some true := by decide +kernel

theorem test_get_state : after (exec .getState State.reset) (fun t => t.result) =
    some (.snapshot Engine.reset.toSnapshot) := by decide +kernel

theorem test_set_state_keeps_pull_acc :
    after (exec (.setState Engine.reset.toSnapshot) { State.reset with eng := { atPattern 7 with pullAcc := 1 / 2 } })
      (fun t => t.eng == { Engine.reset with pullAcc := 1 / 2 }) = some true := by decide +kernel

theorem test_set_state_refused :
    nextOf (exec (.setState { Engine.reset.toSnapshot with
      ch := bankSet Engine.reset.ch 2 { channelReset with cs := { channelStateReset with speed := 0 } } }) State.reset) =
    none := by decide +kernel

/-- The selection sequence of 95_test_vectors.md §2.4. -/
theorem test_selection : selectChannel none Engine.reset.ch = 0 ∧
    selectChannel (some 7) (bankSet Engine.reset.ch 0 (triggeredChannel Inputs.reset 1 0 false)) = 1 ∧
    selectChannel (some 2) Engine.reset.ch = 2 ∧
    (let m := triggeredChannel Inputs.reset 1 0 true
     let d := triggeredChannel Inputs.reset 1 0 false
     selectChannel none ⟨m, m, m, m⟩ = 3 ∧ selectChannel none ⟨m, m, d, m⟩ = 2 ∧
     selectChannel (some (-1)) ⟨d, d, d, d⟩ = 0) := by decide +kernel

/-- The output table of 95_test_vectors.md §2.6. -/
theorem test_output_plain : output Config.default false (5 / 7) = 11702 ∧ output Config.default false 1 = 16383 ∧
    output Config.default false (-1 / 2) = -8191 ∧ output Config.default false 3 = 32767 := by decide +kernel

theorem test_output_distorted : output Config.default true (1 / 2) = 7021 ∧
    output Config.default true (-1 / 2) = -7021 ∧ output Config.default true (1 / 10) = 0 ∧
    output Config.default true (18 / 35) = 9362 ∧ output Config.default true (-6) = -32767 := by decide +kernel

theorem test_bus : busGain Numerics.default Inputs.reset true = 3 / 5 ∧
    busGain Numerics.default { Inputs.reset with volMusic := 5 } true = 3 / 10 ∧
    busGain Numerics.default { Inputs.reset with volSfx := 12 } false = 1 := by decide +kernel

/-- The distortion at another PCM_SCALE, by hand from R221 to R225: 1/2 of 8192 is 4096, one step of 4681;
halved and scaled 4681/2, truncated 2340. -/
theorem test_output_other_scale : output { Config.default with pcmScale := 8192 } true (1 / 2) = 2340 := by
  decide +kernel

/-- A rounding carrier keeps the literals 7/8 and 1/4, whatever its rounding (log 1). -/
theorem test_rounding_keeps_eighths (k : Nat) :
    rnd { Numerics.default with carrier := .rounding k } (7 / 8) = 7 / 8 ∧
    rnd { Numerics.default with carrier := .rounding k } (1 / 4) = 1 / 4 := by
  have h7 := rnd_eighth { Numerics.default with carrier := .rounding k } 7
  have h2 := rnd_eighth { Numerics.default with carrier := .rounding k } 2
  norm_num at h7 h2
  exact ⟨h7, h2⟩

/-- Frequencies the tolerance 1/1000 admits and refuses, by hand from `65.406 × 2^(p/12)`: pitch 7 is
97.99827 Hz, pitch 60 is 2092.992 Hz, pitch -1/4 is 64.46829 Hz. -/
theorem test_freq_bounds : freqOk (1 / 1000) 7 (97998 / 1000) = true ∧ freqOk (1 / 1000) 7 (97997 / 1000) = false ∧
    freqOk (1 / 1000) 7 (98000 / 1000) = false ∧ freqNear (1 / 1000) 7 = 97999 / 1000 ∧
    freqOk 1 60 2092 = true ∧ freqOk 1 60 2094 = false ∧ freqNear (1 / 1000) (-1 / 4) = 64469 / 1000 := by
  decide +kernel

/-- An Active channel that has rendered no row gives 0 and keeps its phase (§2.6, gating). -/
theorem test_gate : renderChannel Config.default Inputs.reset
    { channelReset with cs := { midRow 1 with lastNoteIdx := -1, phi := 1 / 2 } } =
    ⟨{ channelReset with cs := { midRow 1 with lastNoteIdx := -1, phi := 1 / 2 } }, 0⟩ := by decide +kernel

/-! ### Witnesses: for every obligation with hypotheses, what meets them -/

/-- The state after reset with one request waiting. -/
def waiting (r : Request) : State := { State.reset with queue := [r] }

/-- A SAMPLE as the VM issues it. -/
def sampleCall : HostCall := ⟨4, [], none⟩

theorem witness_config : Config.default.WF := by decide +kernel

/-- Meets `MachineInv s`. -/
theorem witness_inv_reset : MachineInv State.reset :=
  ⟨by decide +kernel, ⟨(snapshotOk_iff _ _).1 (by decide +kernel), by decide +kernel⟩, by decide⟩

/-- Meets `ControlInv s`, the hypothesis of SampleCompletesWithinScale, GenerateCompletesWithCountSamples and
UpdateDeliversTheDueBlock. -/
theorem witness_control_reset : ControlInv State.reset := controlInv_of_machineInv witness_inv_reset

/-- Meets `MachineInv s`, and so `ControlInv s`, on a carrier that rounds. -/
theorem witness_inv_rounding :
    let cfg := { Config.default with numerics := { Numerics.default with carrier := .rounding 1 } }
    MachineInv (State.resetOf cfg) ∧ ControlInv (State.resetOf cfg) :=
  have h : MachineInv (State.resetOf
      { Config.default with numerics := { Numerics.default with carrier := .rounding 1 } }) :=
    ⟨test_wf_config_edges.2, ⟨(snapshotOk_iff _ _).1 (by decide +kernel), by decide +kernel⟩, by decide⟩
  ⟨h, controlInv_of_machineInv h⟩

theorem witness_SnapshotRoundTripIsIdentity : EngineWF State.reset.cfg State.reset.eng :=
  witness_inv_reset.2.1

/-- A playing machine: channel 0 in the middle of a looping row, music on. -/
def playing : State :=
  { withBytes [(68, 0x0C), (69, 0x5C)] [] with
    eng := { (atPattern 7).setChan 0
        { channelReset with cs := { midRow 2 with loopEnd := 2, loopActive := true }, effect := .slide } with
      musicTickTimer := 2 } }

/-- As `witness_inv_reset`, on a machine that plays. -/
theorem witness_inv_playing : MachineInv playing :=
  ⟨by decide +kernel, ⟨(snapshotOk_iff _ _).1 (by decide +kernel), by decide +kernel⟩, by decide⟩

theorem witness_StepRunsDecodedCall : (waiting (.call sampleCall)).queue = .call sampleCall :: [] ∧
    decode Config.default.waveMap (.call sampleCall) = .ok .sample := by decide

theorem witness_StepWithoutRequestIsIdle : State.reset.queue = [] := rfl

theorem witness_DecodeInvertsEncode : Config.default.WF ∧
    Instr.WellFormed Config.default (.trigger 63 (some 4) (some 31)) ∧
    Instr.WellFormed Config.default (.musicStart 63 15) ∧ Instr.WellFormed Config.default (.generate 0) := by
  decide +kernel

theorem witness_OperandsOutsideTheirRangesAreRefused :
    (∃ n p mask count : Int, ∃ r0 : Option Int, 63 < n ∧ 31 < r0.getD 0 ∧ 63 < p ∧ 15 < mask ∧ count < 0) ∧
    ∃ n p mask : Int, ∃ r0 : Option Int, n < 0 ∧ r0.getD 0 < 0 ∧ p < 0 ∧ mask < 0 :=
  ⟨⟨64, 64, 16, -1, some 32, by decide⟩, -1, -1, -1, some (-1), by decide⟩

theorem witness_EffectsStayInRange : ChannelStateWF Config.default.numerics (midRow 4) ∧
    ChannelStateWF Config.default.numerics (midRow 1) ∧
    channelReset.effect ≠ .vibrato := by decide +kernel

theorem witness_NoiseClocksOnlyOnAWrap :
    let r := carried Numerics.default
    let inc := r (freq Numerics.default 0 / ((22050 : Nat) : F))
    1 ≤ r (1 - inc + inc) ∧ ¬ 1 ≤ r (0 + inc) := by decide +kernel

theorem witness_RawSamplesStayInRange : (0 : F) ≤ 0 ∧ (0 : F) < 1 ∧ (0 : F) ≤ 15 / 16 ∧ (15 / 16 : F) < 1 := by
  decide +kernel

theorem witness_FrequencyFollowsEqualTemperament : 0 < Numerics.default.freqTolerance ∧
    Numerics.default.carrier = .exact := by decide +kernel

theorem witness_PhaseIncrementIsBelowOne : Config.default.WF ∧
    ChannelStateWF Config.default.numerics (midRow 1) := by decide +kernel

theorem witness_ChannelTickRunsTheRowUnderTheCursor : channelStateReset.sfxId = -1 ∧
    ((midRow 2).sfxId ≠ -1 ∧ 2 ≤ (midRow 2).tickCounter) ∧
    ((midRow 1).sfxId ≠ -1 ∧ (midRow 1).tickCounter ≤ 1) := by decide

theorem witness_LoopingChannelNeverGoesIdle :
    let cs := { midRow 1 with row := 31, loopStart := 30, loopEnd := 32, loopActive := true }
    ControlWF cs ∧ cs.sfxId ≠ -1 ∧ cs.loopActive = true ∧ cs.loopEnd ≤ 32 := by decide +kernel

theorem witness_MusicTimerCountsOnlyWhilePlaying : Engine.reset.musicPlaying = false ∧
    playing.eng.musicPlaying = true ∧ 2 ≤ playing.eng.musicTickTimer := by decide

theorem witness_DispatchFollowsThePattern : (atPattern 7).musicPlaying = true ∧ (atPattern 7).musicTickTimer ≤ 1 ∧
    (atPattern 63).musicPlaying = true ∧ (atPattern 63).musicTickTimer ≤ 1 ∧
    dispatchedSpeeds Inputs.reset 7 = [1, 1, 1, 1] ∧
    dispatchedSpeeds { Inputs.reset with pat := writeBytes [] 28 [0x40, 0x40, 0x40, 0x40] } 7 = [] := by decide

theorem witness_DispatchRunsDecodedEntries : entryMeta (patEntry { Inputs.reset with pat := [(28, 0x81)] } 7 0) = true ∧
    entryMeta (patEntry Inputs.reset 7 0) = false := by decide

theorem witness_SelectTakesGivenThenIdleThenNonMusic :
    (∃ c, (bankGet Engine.reset.ch c).cs.sfxId = -1) ∧
    (let m := triggeredChannel Inputs.reset 1 0 true
     let d := triggeredChannel Inputs.reset 1 0 false
     (¬ ∃ c, (bankGet ⟨m, m, d, m⟩ c).cs.sfxId = -1) ∧ (∃ c, (bankGet ⟨m, m, d, m⟩ c).isMusic = false) ∧
     (¬ ∃ c, (bankGet ⟨m, m, m, m⟩ c).cs.sfxId = -1) ∧ (¬ ∃ c, (bankGet ⟨m, m, m, m⟩ c).isMusic = false)) := by
  decide

theorem witness_TriggerLoadsItsTarget : 63 ≤ 63 ∧ 0 ≤ (some 31 : Option Int).getD 0 ∧
    (some 31 : Option Int).getD 0 ≤ 31 ∧ 0 ≤ (none : Option Int).getD 0 := by decide

theorem witness_MusicStartAndStopWriteTheScalars : 63 ≤ 63 ∧ 15 ≤ 15 := by decide

theorem witness_GenerateOnResetIsSilent : Config.default.WF ∧ State.reset.eng = Engine.reset ∧
    ¬ Muted State.reset.inp := by decide +kernel

theorem witness_MutedBlockIsSilentAndFrozen :
    ({ Inputs.reset with mute := true } : Inputs).mute = true ∧
    (let inp := { Inputs.reset with volMusic := 0, volSfx := 0 }
     inp.volMusic ≤ 0 ∧ inp.volSfx ≤ 0) := by decide

theorem witness_SampleIsTickThenRenderThenOutput : ¬ Muted playing.inp ∧ ¬ Strayed playing.eng := by
  unfold Strayed
  decide +kernel

theorem witness_RenderIsEffectThenWaveform : channelStateReset.sfxId = -1 ∧
    ((midRow 1).sfxId ≠ -1 ∧ (midRow 1).lastNoteIdx ≠ -1) := by decide

theorem witness_OutputDistortsHalvesClampsAndTruncates : 0 < Config.default.pcmScale ∧
    0 < ({ Config.default with pcmScale := 1 } : Config).pcmScale := by decide

theorem witness_sample_of_reset : exec .sample State.reset =
    .next { State.reset with eng := { Engine.reset with tickAcc := 1 }, result := .pcm 0 } :=
  eq_next (by decide +kernel)

theorem witness_IdleChannelKeepsEveryField :
    (bankGet State.reset.eng.ch 3).cs.sfxId = -1 ∧ State.reset.eng.musicPlaying = false ∧
    (bankGet playing.eng.ch 3).cs.sfxId = -1 ∧ 2 ≤ playing.eng.musicTickTimer ∧
    ∃ t, exec .sample State.reset = .next t :=
  ⟨by decide, by decide, by decide, by decide, _, witness_sample_of_reset⟩

theorem witness_SilentChannelsGiveZeroPcm :
    let e := Engine.reset.setChan 1 { channelReset with cs := { midRow 1 with currentVol := 0 } }
    ∀ c : ChanId, (bankGet e.ch c).cs.sfxId = -1 ∨ (bankGet e.ch c).cs.currentVol = 0 := by decide +kernel

/-- A cursor outside its slot, which no well-formed state has. -/
def strayed : State := withCs { midRow 1 with row := 32 }

/-- Every bound of a cursor, just past it, and the music cursor; and every bound met. -/
theorem witness_CursorOutsideMemoryIsRefused :
    (∀ cs ∈ ([{ midRow 1 with sfxId := -2 }, { midRow 1 with sfxId := 64 }, { midRow 1 with row := 32 },
        { midRow 1 with lastNoteIdx := -2 }, { midRow 1 with lastNoteIdx := 32 }] : List ChannelState),
      ¬ Muted (withCs cs).inp ∧ Strayed (withCs cs).eng) ∧
    Strayed (atPattern 64) ∧
    ∀ cs ∈ ([{ midRow 1 with sfxId := 0, row := 0, lastNoteIdx := -1 },
        { midRow 1 with sfxId := 63, row := 31, lastNoteIdx := 31 }] : List ChannelState),
      ¬ Muted (withCs cs).inp ∧ ¬ Strayed (withCs cs).eng := by
  unfold Strayed
  decide +kernel

/-- A state whose next tick sends the cursor outside its slot, from a loop that WF forbids. -/
def strayingNext : State :=
  withCs { midRow 1 with row := 31, loopStart := 200, loopEnd := 32, loopActive := true }

theorem witness_generate_of_reset : exec (.generate 2) State.reset =
    .next { State.reset with eng := { Engine.reset with tickAcc := 2 }, result := .samples [0, 0] } :=
  eq_next (by decide +kernel)

theorem witness_GenerateIsRepeatedSample :
    (∃ t v u vs, exec .sample State.reset = .next t ∧ t.result = .pcm v ∧ exec (.generate 0) t = .next u ∧
      u.result = .samples vs) ∧ exec .sample strayed = .refused .cursorOutsideMemory :=
  ⟨⟨_, _, _, _, witness_sample_of_reset, rfl, rfl, rfl⟩, rfl⟩

/-- The later stop of GenerateIsRepeatedSample: the first sample completes, the second is refused. -/
theorem witness_later_stop :
    ∃ t, exec .sample strayingNext = .next t ∧ exec (.generate 1) t = .refused .cursorOutsideMemory := by
  have h : ∀ o : Host.Outcome State Fault Refusal,
      (match o with
        | .next t => decide (CursorsOk t.eng) || decide (Muted t.inp)
        | _ => true) = false →
      ∃ t, o = .next t ∧ exec (.generate 1) t = .refused .cursorOutsideMemory := by
    intro o ho
    cases o with
    | next t =>
      rw [Bool.or_eq_false_iff, decide_eq_false_iff_not, decide_eq_false_iff_not] at ho
      refine ⟨t, rfl, ?_⟩
      show execGenerate 1 t = _
      have hs : sampleEngine t.cfg t.inp t.eng = .refused .cursorOutsideMemory := by
        rcases sampleEngine_cases t.cfg t.inp t.eng with ⟨h, -⟩ | ⟨-, h, -⟩ | ⟨-, -, h⟩
        · exact absurd h ho.2
        · exact absurd h ho.1
        · exact h
      have hg : generateEngine t.cfg t.inp 1 t.eng = .refused .cursorOutsideMemory := by
        simp only [generateEngine, hs]
      simp only [execGenerate, show GenerateDomain 1 by decide, if_true, Int.toNat_one, hg]
    | fault f => cases ho
    | refused r => cases ho
  exact h _ (by decide +kernel)

/-- The refused UPDATE of UpdateDeliversTheDueBlock: a demand below 0. -/
theorem witness_negative_demand :
    (-1000 : F) + ((State.reset.cfg.nativeRate : Nat) : F) / 60 < 0 := by decide +kernel

theorem witness_GenerateSplitsAnywhere : ∃ t u va vb, exec (.generate 2) State.reset = .next t ∧
    t.result = .samples va ∧ exec (.generate 0) t = .next u ∧ u.result = .samples vb :=
  ⟨_, _, _, _, witness_generate_of_reset, rfl, rfl, rfl⟩

theorem witness_SixtyUpdatesDeliverOneSecond : ControlInv State.reset ∧ State.reset.eng.pullAcc = 0 ∧
    State.reset.cfg.nativeRate + 60 ≤ 60 * State.reset.cfg.pullCap :=
  ⟨witness_control_reset, rfl, by decide⟩

theorem witness_SetStateRestoresAllButThePullAccumulator :
    SnapshotWF Config.default playing.eng.toSnapshot ∧
    ¬ SnapshotWF Config.default strayed.eng.toSnapshot := by
  rw [← snapshotOk_iff, ← snapshotOk_iff]
  decide +kernel

theorem witness_PullAccumulatorReachesOnlyUpdate : Instr.sample ≠ .update ∧ Instr.sample ≠ .reset := by decide

theorem witness_MusicMaskIsInert : Instr.sample ≠ .reset ∧ (∀ p k, Instr.sample ≠ .musicStart p k) ∧
    Instr.sample ≠ .getState ∧ (∀ x, Instr.sample ≠ .setState x) := by
  refine ⟨?_, ?_, ?_, ?_⟩ <;> intros <;> exact Instr.noConfusion

theorem witness_InstructionsNeverWriteTheMemories : ∃ t, exec .sample State.reset = .next t :=
  ⟨_, witness_sample_of_reset⟩

theorem witness_VmWriteChangesOneByte : MemoriesWF State.reset.inp ∧
    (waiting (.pokeInstr 4351 0xFF)).queue = .pokeInstr 4351 0xFF :: [] ∧ 4351 < 4352 ∧
    (waiting (.pokeInstr 4352 0xFF)).queue = .pokeInstr 4352 0xFF :: [] ∧ 4352 ≤ 4352 ∧
    (waiting (.pokePat 255 0xFF)).queue = .pokePat 255 0xFF :: [] ∧ 255 < 256 ∧
    (waiting (.pokePat 256 0xFF)).queue = .pokePat 256 0xFF :: [] ∧ 256 ≤ 256 := by decide

theorem witness_VmSettingsReachOneInput : (waiting (.setVolMusic 11)).queue = .setVolMusic 11 :: [] ∧
    (waiting (.setVolSfx (-1))).queue = .setVolSfx (-1) :: [] ∧
    (waiting (.setMute true)).queue = .setMute true :: [] ∧
    (waiting (.setDistort true)).queue = .setDistort true :: [] := by decide

theorem witness_NoneAndReservedEffectsPassThrough : Instr.effRsv7 = .effNone ∨ Instr.effRsv7 = .effRsv6 ∨
    Instr.effRsv7 = .effRsv7 := by decide

theorem witness_SlideAndDropBendThePitch : 1 ≤ (curCs (withCs (midRow 1))).speed := by decide

theorem witness_FadesScaleTheVolume : 1 ≤ (curCs (withCs channelStateReset)).speed := by decide

theorem witness_LfsrPeriodIs32767 : 0 < 1 ∧ 1 < 32767 ∧ 0 < 32766 ∧ 32766 < 32767 := by decide

theorem witness_EveryStepKeepsWellFormedness : MachineInv (waiting (.call sampleCall)) ∧
    ControlInv (waiting (.call sampleCall)) ∧ ∃ t, step (waiting (.call sampleCall)) = .next t :=
  ⟨witness_inv_reset, witness_control_reset, _, witness_sample_of_reset⟩

theorem witness_ResetMeetsTheMachineInvariant : Config.default.WF :=
  witness_config

theorem witness_WellFormedOperationsAlwaysComplete : ControlInv (waiting (.call sampleCall)) ∧
    (waiting (.call sampleCall)).queue = .call sampleCall :: [] ∧
    decode Config.default.waveMap (.call sampleCall) = .ok .sample ∧ Instr.WellFormed Config.default .sample :=
  ⟨witness_control_reset, rfl, rfl, trivial⟩

end Sys2Proof.Tests
end

