-- ==== Sys2Proof/Proofs/Surroundings.lean ====
section
/-! What an instruction that completes can have written. The operations that can also stop have one inversion
lemma each; from these follows the frame of `exec`: the block writes its own fields, and what surrounds it
(the VM's inputs, the configuration, the queue, the sink) stays, but for the block that UPDATE delivers. -/

namespace Sys2Proof.Machine

/-! ### The operations that can stop: what they leave when they complete -/

theorem execTrigger_next {n : Int} {chan r0 : Option Int} {s t : State}
    (h : execTrigger n chan r0 s = .next t) :
    TriggerDomain n r0 ∧
      t = (s.withEngine (s.eng.setChan (selectChannel chan s.eng.ch)
        (triggeredChannel s.inp n.toNat (r0.getD 0).toNat false))).withResult
          (.channel (selectChannel chan s.eng.ch)) := by
  unfold execTrigger at h
  split at h
  case isTrue hd => cases h; exact ⟨hd, rfl⟩
  case isFalse => cases h

theorem execMusicStart_next {p mask : Int} {s t : State} (h : execMusicStart p mask s = .next t) :
    MusicStartDomain p mask ∧
      t = (s.withEngine
        { s.eng with
          musicPattern := p.toNat, musicLoopStart := 0, musicSpeed := 1, musicTickTimer := 1,
          musicMask := mask.toNat, musicPlaying := true }).withResult .none := by
  unfold execMusicStart at h
  split at h
  case isTrue hd => cases h; exact ⟨hd, rfl⟩
  case isFalse => cases h

theorem execSample_next {s t : State} (h : execSample s = .next t) :
    ∃ p, sampleEngine s.cfg s.inp s.eng = .next p ∧
      t = (s.withEngine p.eng).withResult (.pcm p.pcm) := by
  unfold execSample at h
  split at h
  case h_1 p hp => cases h; exact ⟨p, hp, rfl⟩
  case h_2 => cases h
  case h_3 => cases h

theorem execGenerate_next {count : Int} {s t : State} (h : execGenerate count s = .next t) :
    GenerateDomain count ∧ ∃ b, generateEngine s.cfg s.inp count.toNat s.eng = .next b ∧
      t = (s.withEngine b.eng).withResult (.samples b.pcm) := by
  unfold execGenerate at h
  split at h
  case isFalse => cases h
  case isTrue hd =>
    split at h
    case h_1 b hb => cases h; exact ⟨hd, b, hb, rfl⟩
    case h_2 => cases h
    case h_3 => cases h

theorem execUpdate_next {s t : State} (h : execUpdate s = .next t) :
    GenerateDomain (pullCount s.cfg s.eng) ∧
      ∃ b, generateEngine s.cfg s.inp (pullCount s.cfg s.eng).toNat
          { s.eng with pullAcc := pullDemand s.cfg s.eng - (pullCount s.cfg s.eng : F) } = .next b ∧
        t = ((s.withEngine b.eng).deliver b.pcm).withResult (.samples b.pcm) := by
  simp only [execUpdate] at h
  split at h
  case isFalse => cases h
  case isTrue hd =>
    split at h
    case h_1 b hb => cases h; exact ⟨hd, b, hb, rfl⟩
    case h_2 => cases h
    case h_3 => cases h

theorem execSetState_next {x : Snapshot} {s t : State} (h : execSetState x s = .next t) :
    SnapshotWF s.cfg x ∧ t = (s.withEngine { s.eng with toSnapshot := x }).withResult .none := by
  unfold execSetState at h
  split at h
  case isTrue hx => cases h; exact ⟨(snapshotOk_iff s.cfg x).mp hx, rfl⟩
  case isFalse => cases h

/-! ### What surrounds the block -/

/-- `t` has the inputs, the configuration, the queue and the sink of `s`: the two differ at most in the
block's own fields `eng`, `work` and `result`. -/
structure SameSurroundings (s t : State) : Prop where
  inp   : t.inp = s.inp
  cfg   : t.cfg = s.cfg
  queue : t.queue = s.queue
  sink  : t.sink = s.sink

theorem sameSurroundings_withEngine (s : State) (e : Engine) : SameSurroundings s (s.withEngine e) :=
  ⟨withEngine_inp s e, withEngine_cfg s e, withEngine_queue s e, withEngine_sink s e⟩

theorem sameSurroundings_putCs (s : State) (cs : ChannelState) : SameSurroundings s (s.putCs cs) :=
  ⟨putCs_inp s cs, putCs_cfg s cs, putCs_queue s cs, putCs_sink s cs⟩

theorem sameSurroundings_putResolved (s : State) (r : Resolved) : SameSurroundings s (s.putResolved r) :=
  ⟨putResolved_inp s r, putResolved_cfg s r, putResolved_queue s r, putResolved_sink s r⟩

theorem sameSurroundings_putSampled (s : State) (r : Sampled) : SameSurroundings s (s.putSampled r) :=
  ⟨putSampled_inp s r, putSampled_cfg s r, putSampled_queue s r, putSampled_sink s r⟩

theorem sameSurroundings_eng_work (s : State) (e : Engine) (w : Work) :
    SameSurroundings s { s with eng := e, work := w } :=
  ⟨rfl, rfl, rfl, rfl⟩

theorem sameSurroundings_withResult (s : State) (r : OpResult) : SameSurroundings s (s.withResult r) :=
  ⟨withResult_inp s r, withResult_cfg s r, withResult_queue s r, withResult_sink s r⟩

/-- What a host operation without a delivery leaves: an engine state and a result. -/
theorem sameSurroundings_return (s : State) (e : Engine) (r : OpResult) :
    SameSurroundings s ((s.withEngine e).withResult r) := by
  constructor <;> simp

/-- Every instruction but UPDATE writes the block's own fields only (20_memory.md R63). -/
theorem exec_sameSurroundings {i : Instr} {s t : State} (hi : i ≠ .update) (h : exec i s = .next t) :
    SameSurroundings s t := by
  cases i with
  | effNone | effSlide | effVibrato | effDrop | effFadeIn | effFadeOut | effRsv6 | effRsv7 =>
    cases h; exact sameSurroundings_putResolved s _
  | waveTri | waveTilt | waveSaw | waveSquare | wavePulse | waveOrgan | wavePhaser | waveNoise =>
    cases h; exact sameSurroundings_putSampled s _
  | patPlay | patSilent => cases h; exact sameSurroundings_eng_work s _ _
  | patLoopStart | patLoopBack | patStop | patNext | note =>
    cases h; exact sameSurroundings_withEngine s _
  | hdr => cases h; exact sameSurroundings_putCs s _
  | reset | musicStop => cases h; exact sameSurroundings_return s _ _
  | getState => cases h; exact sameSurroundings_withResult s _
  | trigger n chan r0 =>
    obtain ⟨-, rfl⟩ := execTrigger_next h
    exact sameSurroundings_return s _ _
  | musicStart p mask =>
    obtain ⟨-, rfl⟩ := execMusicStart_next h
    exact sameSurroundings_return s _ _
  | sample =>
    obtain ⟨p, -, rfl⟩ := execSample_next h
    exact sameSurroundings_return s _ _
  | generate count =>
    obtain ⟨-, b, -, rfl⟩ := execGenerate_next h
    exact sameSurroundings_return s _ _
  | update => exact absurd rfl hi
  | setState x =>
    obtain ⟨-, rfl⟩ := execSetState_next h
    exact sameSurroundings_return s _ _

/-- Settles O55: UPDATE writes the sink beside the block's own fields, every other instruction those alone. -/
theorem instructionsNeverWriteTheMemories : Obligations.InstructionsNeverWriteTheMemories := by
  intro i s t h
  by_cases hi : i = .update
  · subst hi
    obtain ⟨-, b, -, rfl⟩ := execUpdate_next h
    simp
  · obtain ⟨hinp, hcfg, hqueue, hsink⟩ := exec_sameSurroundings hi h
    exact ⟨hinp, hcfg, hqueue, fun _ => hsink⟩

end Sys2Proof.Machine
end

section
/-! What 30_encoding.md says of a note row's fields (R83) and of a slot's header (R85): each decoded field as
arithmetic on the row's bytes, and HDR as one write of the channel it works on. -/

namespace Sys2Proof.Machine

open Sys2Proof.Claims

/-! ### The fields of a note row as arithmetic on its bytes -/

/-- A bit field is a quotient taken modulo a power of two. -/
theorem toNat_extractLsb'_eq_div_mod {w : Nat} (b : BitVec w) (start len : Nat) :
    (b.extractLsb' start len).toNat = b.toNat / 2 ^ start % 2 ^ len := by
  rw [BitVec.extractLsb'_toNat, Nat.shiftRight_eq_div_pow]

/-- Concatenated bit fields weigh the high one by the size of the low one. -/
theorem toNat_append_eq_mul_add {v w : Nat} (hi : BitVec v) (lo : BitVec w) :
    (hi ++ lo).toNat = 2 ^ w * hi.toNat + lo.toNat := by
  rw [BitVec.toNat_append, ← Nat.shiftLeft_add_eq_or_of_lt lo.isLt, Nat.shiftLeft_eq, Nat.mul_comm]

theorem rowKey_toNat (b0 : Byte) : (rowKey b0).toNat = b0.toNat % 64 := by
  rw [rowKey, toNat_extractLsb'_eq_div_mod]
  omega

/-- The effect code is put together from both bytes: two low bits of byte 1 below bit 6 of byte 0. -/
theorem rowEff_toNat (b0 b1 : Byte) :
    (rowEff b0 b1).toNat = b1.toNat % 4 + 4 * (b0.toNat / 64 % 2) := by
  rw [rowEff, toNat_append_eq_mul_add, toNat_extractLsb'_eq_div_mod, toNat_extractLsb'_eq_div_mod]
  omega

theorem rowVol_toNat (b1 : Byte) : (rowVol b1).toNat = b1.toNat / 4 % 8 :=
  toNat_extractLsb'_eq_div_mod b1 2 3

/-- The waveform code takes all the bits above the volume, so nothing is left to reduce. -/
theorem rowWave_toNat (b1 : Byte) : (rowWave b1).toNat = b1.toNat / 32 := by
  have hb : b1.toNat < 256 := b1.isLt
  rw [rowWave, toNat_extractLsb'_eq_div_mod]
  omega

/-- Settles O4: a row decodes to a NOTE of the four fields, each of them known as a number. -/
theorem noteRowFieldsAreTheNamedBits : Obligations.NoteRowFieldsAreTheNamedBits := fun _ b0 b1 =>
  ⟨rowKey b0, rowEff b0 b1, rowVol b1, rowWave b1, rfl,
    rowKey_toNat b0, rowEff_toNat b0 b1, rowVol_toNat b1, rowWave_toNat b1⟩

/-! ### HDR -/

/-- A write of the ChannelState alone keeps the rest of the channel: child, music flag and effect. -/
theorem putCs_eq_withCurChan (s : State) (cs : ChannelState) :
    s.putCs cs = withCurChan s { bankGet s.eng.ch s.work.chan with cs := cs } := rfl

theorem exec_hdr (b65 b66 b67 : Byte) (s : State) :
    exec (.hdr b65 b66 b67) s = .next (s.putCs (latchHeader b65 b66 b67 s.curChan.cs)) := rfl

/-- The header fields as R85 names them; every other field of the ChannelState stands. -/
theorem latchHeader_eq (b65 b66 b67 : Byte) (cs : ChannelState) :
    latchHeader b65 b66 b67 cs =
      { cs with
        speed := max b65.toNat 1
        loopStart := b66.toNat
        loopEnd := b67.toNat
        loopActive := decide (b67.toNat > b66.toNat) } := rfl

/-- Settles O22: HDR writes the current channel's ChannelState alone, and of that the latched header alone. -/
theorem headerLatchesSpeedAndLoop : Obligations.HeaderLatchesSpeedAndLoop := by
  intro b65 b66 b67 s
  rw [exec_hdr, putCs_eq_withCurChan, latchHeader_eq]
  rfl

end Sys2Proof.Machine
end

section
/-! What 42_tick_scheduler.md says of a pattern's silent entry (R161): it passes the dispatch in progress on
as it stands, and the instruction run alone writes that dispatch back over itself. -/

namespace Sys2Proof.Machine

/-- A silent entry keeps the engine and the least speed so far (42_tick_scheduler.md R161). -/
@[simp] theorem patSilent_eq_self (d : Dispatching) : patSilent d = d := rfl

/-- Run alone, PAT.SILENT works on the dispatch made of the state's engine and its `minSpeed` (log 13). -/
theorem exec_patSilent (s : State) :
    exec .patSilent s =
      .next { s with
        eng := (patSilent ⟨s.eng, s.work.minSpeed⟩).eng
        work := { s.work with minSpeed := (patSilent ⟨s.eng, s.work.minSpeed⟩).m } } := rfl

/-- Settles O24: both parts of the dispatch return as they were, so the state is rebuilt from its own fields. -/
theorem patSilentChangesNothing : Obligations.PatSilentChangesNothing := by
  intro s
  rw [exec_patSilent, patSilent_eq_self]

end Sys2Proof.Machine
end

