-- ==== Sys2Proof/Proofs/TriggerTarget.lean ====
section
/-! What 43_direct_trigger.md says of TRIGGER's target (R186): when the given channel is valid, what the scan of
the four channels finds, and which of the two decides the target. -/

namespace Sys2Proof.Machine

/-! ### The given channel -/

/-- A channel's own number names it. -/
theorem namedChannel_val (t : ChanId) : namedChannel (some (t.val : Int)) = some t := by
  rcases chanId_cases t with rfl | rfl | rfl | rfl <;> rfl

/-- A given channel is valid exactly in 0..3; absent or past either end it counts as not given. -/
theorem namedChannel_eq_none_iff (chan : Option Int) :
    namedChannel chan = none ↔ ∀ c : Int, chan = some c → c < 0 ∨ 3 < c := by
  constructor
  · rintro h c rfl
    by_contra hc
    lift c to ℕ using by omega
    have named := namedChannel_val ⟨c, by omega⟩
    rw [h] at named
    cases named
  · intro h
    unfold namedChannel
    split
    case h_5 => rfl
    all_goals exact absurd (h _ rfl) (by decide)

/-! ### The scan of the four channels -/

/-- The four comparisons are the library's search for the least index. -/
theorem firstChannel_eq_find? (p : Channel → Bool) (b : Bank) :
    firstChannel p b = Fin.find? (fun c : ChanId => p (bankGet b c)) := by
  simp only [firstChannel, Fin.find?_succ, Fin.find?_zero, Option.map_none, Fin.reduceSucc,
    bankGet_zero, bankGet_one, bankGet_two, bankGet_three, apply_ite (Option.map Fin.succ), Option.map_some]

section
variable {p : Channel → Bool} {P : Channel → Prop} (hp : ∀ ch, p ch = true ↔ P ch) {b : Bank}
include hp

theorem firstChannel_eq_none_iff : firstChannel p b = none ↔ ¬ ∃ c, P (bankGet b c) := by
  simp only [firstChannel_eq_find?, Fin.find?_eq_none_iff, not_exists, ← hp, Bool.not_eq_true]

theorem firstChannel_eq_some_iff {t : ChanId} :
    firstChannel p b = some t ↔ P (bankGet b t) ∧ ∀ c, c < t → ¬ P (bankGet b c) := by
  simp only [firstChannel_eq_find?, Fin.find?_eq_some_iff, ← hp, Bool.not_eq_true]

theorem firstChannel_of_exists (h : ∃ c, P (bankGet b c)) :
    ∃ t, firstChannel p b = some t ∧ P (bankGet b t) ∧ ∀ c, c < t → ¬ P (bankGet b c) := by
  have found : firstChannel p b ≠ none := fun notFound => (firstChannel_eq_none_iff hp).mp notFound h
  obtain ⟨t, ht⟩ := Option.ne_none_iff_exists'.mp found
  exact ⟨t, ht, (firstChannel_eq_some_iff hp).mp ht⟩

end

/-! ### The target -/

/-- The first of the three choices that names a channel, and channel 3 when none does (R186). -/
theorem selectChannel_eq (chan : Option Int) (b : Bank) :
    selectChannel chan b =
      (((namedChannel chan).or (firstChannel (fun ch => decide (Idle ch.cs)) b)).or
        (firstChannel (fun ch => !ch.isMusic) b)).getD 3 := by
  unfold selectChannel
  cases namedChannel chan with
  | some c => rfl
  | none =>
    cases firstChannel (fun ch => decide (Idle ch.cs)) b with
    | some c => rfl
    | none => cases firstChannel (fun ch => !ch.isMusic) b <;> rfl

/-- Settles O30: the three choices of `selectChannel_eq` in turn, each known from its own lemma. -/
theorem selectTakesGivenThenIdleThenNonMusic : Obligations.SelectTakesGivenThenIdleThenNonMusic := by
  intro chan b t idle direct
  have idle_iff : ∀ ch : Channel, decide (Idle ch.cs) = true ↔ ch.cs.sfxId = -1 := fun _ => decide_eq_true_iff
  have direct_iff : ∀ ch : Channel, (!ch.isMusic) = true ↔ ch.isMusic = false := fun _ => .of_eq (Bool.not_eq_true' _)
  have ht : t = _ := selectChannel_eq chan b
  refine ⟨?given, fun hchan => ?absent⟩
  case given =>
    rintro c rfl h0 h3
    lift c to ℕ using h0
    have named := namedChannel_val ⟨c, by omega⟩
    rw [ht, named]
    rfl
  case absent =>
    rw [(namedChannel_eq_none_iff chan).mpr hchan, Option.none_or] at ht
    refine ⟨fun hidle => ?_, fun noIdle hdirect => ?_, fun noIdle noDirect => ?_⟩
    · obtain ⟨c, found, least⟩ := firstChannel_of_exists idle_iff hidle
      rw [found] at ht
      exact ht ▸ least
    · obtain ⟨c, found, least⟩ := firstChannel_of_exists direct_iff hdirect
      rw [(firstChannel_eq_none_iff idle_iff).mpr noIdle, found] at ht
      exact ht ▸ least
    · rw [(firstChannel_eq_none_iff idle_iff).mpr noIdle, (firstChannel_eq_none_iff direct_iff).mpr noDirect] at ht
      exact ht

end Sys2Proof.Machine
end

section
/-! What 44_effect_modulator.md says of the effects without a transform (R201, R208, R209): the pair they yield
is the latched one, and the ChannelState they hand back is the channel's own. -/

namespace Sys2Proof.Machine

open Sys2Proof.Claims

theorem exec_effNone (s : State) : exec .effNone s = .next (s.putResolved (effNone s.curChan.cs)) := rfl

theorem exec_effRsv6 (s : State) : exec .effRsv6 s = .next (s.putResolved (effRsv6 s.curChan.cs)) := rfl

theorem exec_effRsv7 (s : State) : exec .effRsv7 s = .next (s.putResolved (effRsv7 s.curChan.cs)) := rfl

/-- The reserved codes are read as no-ops, that is as effect 0 (R208). -/
theorem effRsv6_eq_effNone (cs : ChannelState) : effRsv6 cs = effNone cs := rfl

theorem effRsv7_eq_effNone (cs : ChannelState) : effRsv7 cs = effNone cs := rfl

/-- An effect that hands back the channel's own ChannelState leaves its pair in `work` and the bank as it was. -/
theorem putResolved_eq_withPair (s : State) (pitch vol : F) :
    s.putResolved ⟨s.curChan.cs, pitch, vol⟩ = withPair s pitch vol :=
  putResolved_self s pitch vol

theorem putResolved_effNone (s : State) :
    s.putResolved (effNone s.curChan.cs) = withPair s (curCs s).currentPitchVal (curCs s).currentVol :=
  putResolved_eq_withPair s (curCs s).currentPitchVal (curCs s).currentVol

/-- Settles O7: EFF.NONE writes its latched pair alone, and the two reserved effects do what EFF.NONE does. -/
theorem noneAndReservedEffectsPassThrough : Obligations.NoneAndReservedEffectsPassThrough := by
  rintro s i (rfl | rfl | rfl)
  case inl => rw [exec_effNone, putResolved_effNone]
  case inr.inl => rw [exec_effRsv6, effRsv6_eq_effNone, putResolved_effNone]
  case inr.inr => rw [exec_effRsv7, effRsv7_eq_effNone, putResolved_effNone]

end Sys2Proof.Machine
end

section
/-! The mute gate (45_sample_mixer_output.md R226): its condition on the volumes as the VM presents them, and
the silent, frozen block behind it, for one sample and by induction for any number of them. -/

namespace Sys2Proof.Machine

/-! ### The condition -/

/-- The bound sends every value below 0 to 0, and no value above 0 (R49). -/
theorem boundVol_eq_zero_iff (v : Int) : boundVol v = 0 ↔ v ≤ 0 := by
  unfold boundVol
  split_ifs <;> omega

theorem muted_iff (inp : Inputs) :
    Muted inp ↔ inp.mute = true ∨ (inp.volMusic ≤ 0 ∧ inp.volSfx ≤ 0) := by
  rw [Muted, boundVol_eq_zero_iff, boundVol_eq_zero_iff]

/-! ### The block while muted -/

theorem sampleEngine_of_muted {inp : Inputs} (h : Muted inp) (cfg : Config) (e : Engine) :
    sampleEngine cfg inp e = .next ⟨e, 0⟩ := if_pos h

/-- The gate depends on the inputs alone, so what holds of one sample holds of every sample of a block. -/
theorem generateEngine_of_muted {inp : Inputs} (h : Muted inp) (cfg : Config) (e : Engine) (k : Nat) :
    generateEngine cfg inp k e = .next ⟨e, List.replicate k 0⟩ := by
  induction k with
  | zero => rfl
  | succ k ih => simp only [generateEngine, sampleEngine_of_muted h, ih, List.replicate_succ]

theorem execSample_of_muted {s : State} (h : Muted s.inp) :
    execSample s = .next (s.withResult (.pcm 0)) := by
  simp only [execSample, sampleEngine_of_muted h, withEngine_self]

theorem execGenerate_of_muted {s : State} (h : Muted s.inp) (k : Nat) :
    execGenerate k s = .next (s.withResult (.samples (List.replicate k 0))) := by
  simp only [execGenerate, if_pos (Int.natCast_nonneg k), Int.toNat_natCast, generateEngine_of_muted h,
    withEngine_self]

/-- Settles O35: the gate by the raw volumes, and behind it SAMPLE and GENERATE write their result alone. -/
theorem mutedBlockIsSilentAndFrozen : Obligations.MutedBlockIsSilentAndFrozen := by
  intro s k
  refine ⟨muted_iff s.inp, fun gate => ?_⟩
  have muted : Muted s.inp := (muted_iff s.inp).mpr gate
  exact ⟨execSample_of_muted muted, execGenerate_of_muted muted k⟩

end Sys2Proof.Machine
end

section
/-! What 46_snapshot.md says of the snapshot operations (R241, R242): GETSTATE writes its result alone, and
SETSTATE replaces all of S but `pull_acc`, under WF_SNAPSHOT and under nothing else. -/

namespace Sys2Proof.Machine

/-! ### The snapshot's fields in S -/

/-- S holds the fields of a snapshot beside `pull_acc` (R240). -/
theorem toSnapshot_eq_fields (e : Engine) :
    e.toSnapshot =
      { ch := e.ch, musicPattern := e.musicPattern, musicTickTimer := e.musicTickTimer,
        musicSpeed := e.musicSpeed, musicLoopStart := e.musicLoopStart, musicMask := e.musicMask,
        musicPlaying := e.musicPlaying, tickAcc := e.tickAcc } := rfl

/-- A snapshot put into S gives it every field but one, and `pull_acc` stands. -/
theorem withSnapshot_eq_fields (e : Engine) (x : Snapshot) :
    { e with toSnapshot := x } =
      ({ ch := x.ch, musicPattern := x.musicPattern, musicTickTimer := x.musicTickTimer,
         musicSpeed := x.musicSpeed, musicLoopStart := x.musicLoopStart, musicMask := x.musicMask,
         musicPlaying := x.musicPlaying, tickAcc := x.tickAcc, pullAcc := e.pullAcc } : Engine) := rfl

/-! ### The two operations -/

theorem exec_getState (s : State) :
    exec .getState s = .next (s.withResult (.snapshot s.eng.toSnapshot)) := rfl

theorem exec_setState (x : Snapshot) (s : State) : exec (.setState x) s = execSetState x s := rfl

theorem execSetState_of_wf {s : State} {x : Snapshot} (h : SnapshotWF s.cfg x) :
    execSetState x s = .next ((s.withEngine { s.eng with toSnapshot := x }).withResult .none) :=
  if_pos ((snapshotOk_iff s.cfg x).mpr h)

theorem execSetState_of_not_wf {s : State} {x : Snapshot} (h : ¬ SnapshotWF s.cfg x) :
    execSetState x s = .refused .snapshotNotWellFormed :=
  if_neg (mt (snapshotOk_iff s.cfg x).mp h)

/-- Settles O50: GETSTATE's one write is its result, and that is S's snapshot read field by field. -/
theorem getStateReturnsTheSnapshot : Obligations.GetStateReturnsTheSnapshot := by
  intro s x
  rw [exec_getState, toSnapshot_eq_fields]
  rfl

/-- Settles O51, by SETSTATE's two answers: the well-formed snapshot is put into S, any other is refused. -/
theorem setStateRestoresAllButThePullAccumulator : Obligations.SetStateRestoresAllButThePullAccumulator := by
  intro s x
  rw [exec_setState]
  constructor
  case left =>
    intro wf
    rw [execSetState_of_wf wf, withSnapshot_eq_fields]
    rfl
  case right => exact execSetState_of_not_wf

end Sys2Proof.Machine
end

section
/-! What 47_host_operations.md says of GENERATE at the edge of its operand: a count of 0 asks for no sample
(R251), and a negative count lies outside the domain (30_encoding.md R92). -/

namespace Sys2Proof.Machine

theorem exec_generate (count : Int) (s : State) : exec (.generate count) s = execGenerate count s := rfl

/-- A count below 0 is refused before any sample is made. -/
theorem execGenerate_of_neg {count : Int} (h : count < 0) (s : State) :
    execGenerate count s = .refused (.operandOutsideDomain "GENERATE") :=
  if_neg (Int.not_le.mpr h)

/-- An admitted count returns the block that its samples make, and nothing of S but that block's engine. -/
theorem execGenerate_of_block {s : State} {k : Nat} {b : Block}
    (h : generateEngine s.cfg s.inp k s.eng = .next b) :
    execGenerate k s = .next ((s.withEngine b.eng).withResult (.samples b.pcm)) := by
  simp only [execGenerate, if_pos (Int.natCast_nonneg k), Int.toNat_natCast, h]

/-- The empty block: no sample is made, so the engine is the one it began with. -/
theorem generateEngine_zero (cfg : Config) (inp : Inputs) (e : Engine) :
    generateEngine cfg inp 0 e = .next ⟨e, []⟩ := rfl

theorem execGenerate_zero (s : State) : execGenerate 0 s = .next (s.withResult (.samples [])) := by
  have block := execGenerate_of_block (generateEngine_zero s.cfg s.inp s.eng)
  rwa [withEngine_self] at block

/-- Settles O44: the empty block puts S back as it was, and the operand's domain turns a negative count away. -/
theorem generateZeroIsIdentity : Obligations.GenerateZeroIsIdentity := by
  intro s
  constructor
  case left =>
    rw [exec_generate, execGenerate_zero]
    rfl
  case right =>
    intro count negative
    rw [exec_generate, execGenerate_of_neg negative]

end Sys2Proof.Machine
end

section
/-! Decoding undoes encoding (30_encoding.md sections 3 to 7): the four fields of a row survive the packing into
two bytes, the code tables of effects and waveforms are inverted, and a host operation's operands pass the
ranges they were drawn from. -/

namespace Sys2Proof

open Sys2Proof.Machine

/-! ### The packed row -/

theorem rowBytes_fst_toNat (key : BitVec 6) (eff vol wave : BitVec 3) :
    (rowBytes key eff vol wave).1.toNat = 64 * (eff.toNat / 4) + key.toNat := by
  have heff := eff.isLt
  simp only [rowBytes, toNat_append_eq_mul_add, toNat_extractLsb'_eq_div_mod, BitVec.toNat_ofNat]
  omega

theorem rowBytes_snd_toNat (key : BitVec 6) (eff vol wave : BitVec 3) :
    (rowBytes key eff vol wave).2.toNat = 32 * wave.toNat + 4 * vol.toNat + eff.toNat % 4 := by
  simp only [rowBytes, toNat_append_eq_mul_add, toNat_extractLsb'_eq_div_mod]
  omega

@[simp] theorem rowKey_rowBytes (key : BitVec 6) (eff vol wave : BitVec 3) :
    rowKey (rowBytes key eff vol wave).1 = key := by
  apply BitVec.eq_of_toNat_eq
  rw [rowKey_toNat, rowBytes_fst_toNat]
  omega

@[simp] theorem rowEff_rowBytes (key : BitVec 6) (eff vol wave : BitVec 3) :
    rowEff (rowBytes key eff vol wave).1 (rowBytes key eff vol wave).2 = eff := by
  apply BitVec.eq_of_toNat_eq
  rw [rowEff_toNat, rowBytes_fst_toNat, rowBytes_snd_toNat]
  omega

@[simp] theorem rowVol_rowBytes (key : BitVec 6) (eff vol wave : BitVec 3) :
    rowVol (rowBytes key eff vol wave).2 = vol := by
  apply BitVec.eq_of_toNat_eq
  rw [rowVol_toNat, rowBytes_snd_toNat]
  omega

@[simp] theorem rowWave_rowBytes (key : BitVec 6) (eff vol wave : BitVec 3) :
    rowWave (rowBytes key eff vol wave).2 = wave := by
  apply BitVec.eq_of_toNat_eq
  rw [rowWave_toNat, rowBytes_snd_toNat]
  omega

/-! ### The code tables -/

@[simp] theorem effectOfCode_codeOfEffect (e : Effect) : effectOfCode (codeOfEffect e) = e := by
  cases e <;> rfl

/-- The code found for a generator leads back to it when WAVE_MAP reaches it at all: the first seven tests each
find it at their own field, and when all fail only the last field is left. -/
theorem waveOfCode_codeOfWave {m : WaveMap} {w : Waveform} (h : w ∈ m.toList) :
    waveOfCode m (codeOfWave m w) = w := by
  simp only [WaveMap.toList, List.mem_cons, List.not_mem_nil, or_false] at h
  unfold codeOfWave
  split_ifs with h0 h1 h2 h3 h4 h5 h6
  case neg =>
    simp only [eq_comm (a := w), h0, h1, h2, h3, h4, h5, h6, false_or] at h
    exact h
  all_goals assumption

theorem mem_waveform_all (w : Waveform) : w ∈ Waveform.all := by cases w <;> decide

/-! ### What the three units read -/

theorem decode_effectRow (m : WaveMap) (e : Effect) : decode m (effectRow e) = .ok (effectInstr e) := by
  simp only [effectRow, decode, rowEff_rowBytes, effectOfCode_codeOfEffect]

theorem decode_waveRow {m : WaveMap} (hm : m.Bijective) (w : Waveform) :
    decode m (waveRow m w) = .ok (waveInstr w) := by
  simp only [waveRow, decode, rowWave_rowBytes, waveOfCode_codeOfWave (hm w (mem_waveform_all w))]

theorem decode_encode_note (m : WaveMap) (key : BitVec 6) (eff vol wave : BitVec 3) :
    decode m (encode m (.note key eff vol wave)) = .ok (.note key eff vol wave) := by
  simp only [encode, decode, rowKey_rowBytes, rowEff_rowBytes, rowVol_rowBytes, rowWave_rowBytes]

/-! ### Pattern entries -/

theorem entryEmpty_of_instr (n : BitVec 6) : entryEmpty (0#2 ++ n) = false := by
  rw [entryEmpty, BitVec.getLsbD_append]
  rfl

@[simp] theorem entryInstr_of_instr (n : BitVec 6) : entryInstr (0#2 ++ n) = n := by
  apply BitVec.eq_of_toNat_eq
  rw [entryInstr, toNat_extractLsb'_eq_div_mod, toNat_append_eq_mul_add]
  have := n.isLt
  simp only [BitVec.toNat_ofNat]
  omega

theorem decode_encode_patPlay (m : WaveMap) (n : BitVec 6) :
    decode m (encode m (.patPlay n)) = .ok (.patPlay n) := by
  simp only [encode, decode, entryEmpty_of_instr, entryInstr_of_instr, Bool.false_eq_true, if_false]

/-! ### Host operations with operands -/

theorem decodeCall_trigger {n : Int} {chan r0 : Option Int} (h : TriggerDomain n r0) :
    decodeCall ⟨1, [some n, chan, r0], none⟩ = .ok (.trigger n chan r0) := if_pos h

theorem decodeCall_musicStart {p mask : Int} (h : MusicStartDomain p mask) :
    decodeCall ⟨2, [some p, some mask], none⟩ = .ok (.musicStart p mask) := if_pos h

theorem decodeCall_generate {count : Int} (h : GenerateDomain count) :
    decodeCall ⟨5, [some count], none⟩ = .ok (.generate count) := if_pos h

/-- Settles O3: per format, by the inverse of that format's packing. -/
theorem decodeInvertsEncode : Obligations.DecodeInvertsEncode := by
  intro cfg i hcfg hi
  obtain ⟨-, -, -, -, -, bijective⟩ := hcfg
  cases i with
  | effNone | effSlide | effVibrato | effDrop | effFadeIn | effFadeOut | effRsv6 | effRsv7 =>
    exact decode_effectRow cfg.waveMap _
  | waveTri | waveTilt | waveSaw | waveSquare | wavePulse | waveOrgan | wavePhaser | waveNoise =>
    exact decode_waveRow bijective _
  | patPlay n => exact decode_encode_patPlay cfg.waveMap n
  | patSilent | patLoopStart | patLoopBack | patStop | patNext => rfl
  | note key eff vol wave => exact decode_encode_note cfg.waveMap key eff vol wave
  | hdr | reset | musicStop | sample | update | getState | setState => rfl
  | trigger n chan r0 => exact decodeCall_trigger (chan := chan) hi
  | musicStart p mask => exact decodeCall_musicStart hi
  | generate count => exact decodeCall_generate hi

end Sys2Proof
end

section
/-! WF as an invariant of the machine (10_state.md R55): every host operation keeps it, and so does every step,
both on all of S and on the whole-number fields alone. The two are one argument, over the predicate that the
channels meet. -/

namespace Sys2Proof.Machine

/-! ### The predicate on the channels as a parameter -/

/-- The configuration, S with channels that meet `Q`, and the memories: `ControlInv` and `MachineInv` are this at
their `Q`. -/
abbrev InvOn (Q : Channel → Prop) (s : State) : Prop :=
  s.cfg.WF ∧ EngineOk Q s.cfg s.eng ∧ MemoriesWF s.inp

/-- A channel predicate that the channel's operations keep, and that every well-formed channel meets: the last is
what RESET and SETSTATE need. -/
structure HostInv (cfg : Config) (Q : Channel → Prop) : Prop extends ChannelInv cfg Q where
  ofWF : ∀ ch, ChannelWF cfg.numerics ch → Q ch

theorem channelControl_hostInv (cfg : Config) : HostInv cfg ChannelControlWF :=
  ⟨channelControl_inv cfg, fun _ h => ⟨h.1.1, h.2.1⟩⟩

theorem channelWF_hostInv {cfg : Config} (hc : cfg.WF) : HostInv cfg (ChannelWF cfg.numerics) :=
  ⟨channelWF_inv hc, fun _ h => h⟩

/-! ### The engine after RESET, and the pull accumulator -/

theorem samplesPerTick_pos {cfg : Config} (hc : cfg.WF) : 0 < cfg.samplesPerTick := hc.2.2.1

/-- S after RESET is well formed under every configuration in its domain (70_reset_and_hazards.md R285). -/
theorem engineReset_wf {cfg : Config} (hc : cfg.WF) : EngineWF cfg Engine.reset := by
  have hch : ChannelsWF cfg.numerics Engine.reset.ch :=
    (forall_chan_iff (p := ChannelWF cfg.numerics) _).2
      ⟨channelReset_wf _, channelReset_wf _, channelReset_wf _, channelReset_wf _⟩
  exact ⟨⟨hch, by decide, by decide, by decide, by decide, by decide, samplesPerTick_pos hc⟩, le_refl 0⟩

/-- The block of an UPDATE is the floor of the demand, but no longer than the cap (47_host_operations.md R254). -/
theorem pullCount_eq_min (cfg : Config) (e : Engine) :
    pullCount cfg e = min ⌊pullDemand cfg e⌋ (cfg.pullCap : Int) := by
  rw [pullCount, min_def]
  rfl

theorem pullCount_le_pullDemand (cfg : Config) (e : Engine) : (pullCount cfg e : F) ≤ pullDemand cfg e := by
  rw [pullCount_eq_min, ← Int.le_floor]
  exact min_le_left _ _

theorem pullDemand_nonneg (cfg : Config) {e : Engine} (h : 0 ≤ e.pullAcc) : 0 ≤ pullDemand cfg e := by
  unfold pullDemand
  positivity

/-! ### Host operations -/

section
variable {Q : Channel → Prop} {s : State}

/-- The engine an UPDATE generates from: the remainder of the demand stays in the accumulator. -/
theorem carried_remainder_ok (hs : EngineOk Q s.cfg s.eng) :
    EngineOk Q s.cfg { s.eng with pullAcc := pullDemand s.cfg s.eng - (pullCount s.cfg s.eng : F) } :=
  ⟨hs.1, sub_nonneg.2 (pullCount_le_pullDemand s.cfg s.eng)⟩

/-- A host operation that completes keeps the engine's invariant. -/
theorem exec_engineOk (hc : s.cfg.WF) (hQ : HostInv s.cfg Q) {i : Instr} {t : State} (hf : i.format = .hostOp)
    (h : exec i s = .next t) (hs : EngineOk Q s.cfg s.eng) : EngineOk Q s.cfg t.eng := by
  have hticks := samplesPerTick_pos hc
  cases i with
  | effNone | effSlide | effVibrato | effDrop | effFadeIn | effFadeOut | effRsv6 | effRsv7
  | waveTri | waveTilt | waveSaw | waveSquare | wavePulse | waveOrgan | wavePhaser | waveNoise
  | patPlay | patSilent | patLoopStart | patLoopBack | patStop | patNext | note | hdr => cases hf
  | reset =>
    cases h
    obtain ⟨⟨hch, hsc⟩, hp⟩ := engineReset_wf hc
    exact ⟨⟨fun c => hQ.ofWF _ (hch c), hsc⟩, hp⟩
  | trigger n chan r0 =>
    obtain ⟨hd, rfl⟩ := execTrigger_next h
    obtain ⟨⟨hch, hsc⟩, hp⟩ := hs
    exact ⟨⟨bankSet_ok hch _ (hQ.triggered s.inp _ _ false (by omega) (by omega)), hsc⟩, hp⟩
  | musicStart p mask =>
    obtain ⟨⟨hpat, hmask⟩, rfl⟩ := execMusicStart_next h
    obtain ⟨⟨hch, -, -, -, -, -, hacc⟩, hp⟩ := hs
    have hpat' : p.toNat ≤ 63 := by omega
    have hmask' : mask.toNat ≤ 15 := by omega
    have timer : 1 ≤ 1 ∧ 1 ≤ 8160 := by decide
    have speed : 1 ≤ 1 ∧ 1 ≤ 255 := by decide
    exact ⟨⟨hch, hpat', timer, speed, Nat.zero_le _, hmask', hacc⟩, hp⟩
  | musicStop => cases h; exact hs
  | getState => cases h; exact hs
  | sample =>
    obtain ⟨p, hp, rfl⟩ := execSample_next h
    obtain ⟨p', hp', hok, -⟩ := sampleEngine_ok hQ.toChannelInv hticks s.inp hs
    cases hp.symm.trans hp'
    exact hok
  | generate count =>
    obtain ⟨-, b, hb, rfl⟩ := execGenerate_next h
    obtain ⟨b', hb', hok, -⟩ := generateEngine_ok hQ.toChannelInv hticks s.inp count.toNat hs
    cases hb.symm.trans hb'
    exact hok
  | update =>
    obtain ⟨-, b, hb, rfl⟩ := execUpdate_next h
    obtain ⟨b', hb', hok, -⟩ := generateEngine_ok hQ.toChannelInv hticks s.inp (pullCount s.cfg s.eng).toNat
      (carried_remainder_ok hs)
    cases hb.symm.trans hb'
    exact hok
  | setState x =>
    obtain ⟨⟨hch, hsc⟩, rfl⟩ := execSetState_next h
    exact ⟨⟨fun c => hQ.ofWF _ (hch c), hsc⟩, hs.2⟩

/-- A host operation that completes keeps the invariant, and the configuration it speaks of. -/
theorem exec_invOn (hQ : HostInv s.cfg Q) {i : Instr} {t : State} (hf : i.format = .hostOp)
    (h : exec i s = .next t) (hs : InvOn Q s) : InvOn Q t ∧ t.cfg = s.cfg := by
  obtain ⟨hinp, hcfg, -, -⟩ := instructionsNeverWriteTheMemories i s t h
  obtain ⟨hc, he, hm⟩ := hs
  have he' := exec_engineOk hc hQ hf h he
  rw [InvOn, hcfg, hinp]
  exact ⟨⟨hc, he', hm⟩, rfl⟩

end

/-- A host operation that completes keeps both invariants. -/
theorem exec_keeps_inv {i : Instr} {s t : State} (hf : i.format = .hostOp) (h : exec i s = .next t) :
    (ControlInv s → ControlInv t) ∧ (MachineInv s → MachineInv t) := by
  refine ⟨fun hs => (exec_invOn (channelControl_hostInv s.cfg) hf h hs).1, fun hs => ?_⟩
  obtain ⟨ht, hcfg⟩ := exec_invOn (channelWF_hostInv hs.1) hf h hs
  rw [← hcfg] at ht
  exact ht

/-! ### Steps -/

/-- A call decodes to a host operation (30_encoding.md R91). -/
theorem decodeCall_format {h : HostCall} {i : Instr} (hd : decodeCall h = .ok i) : i.format = .hostOp := by
  unfold decodeCall at hd
  split at hd
  case h_2 | h_3 | h_6 =>
    split at hd
    · cases hd; rfl
    · cases hd
  case h_10 => split at hd <;> cases hd
  all_goals cases hd; rfl

/-- An act of the VM between two operations leaves S and the configuration alone and the memories canonical
(20_memory.md R71). -/
structure VmAct (s t : State) : Prop where
  cfg : t.cfg = s.cfg
  eng : t.eng = s.eng
  mem : MemoriesWF s.inp → MemoriesWF t.inp

theorem vmAct_pokeInstr {a : Nat} {b : Byte} {s t : State} (h : vmPokeInstr a b s = .next t) : VmAct s t := by
  unfold vmPokeInstr at h
  split at h
  case isTrue ha => cases h; exact ⟨rfl, rfl, fun hm => ⟨Memory.wf_write hm.1 b ha, hm.2⟩⟩
  case isFalse => cases h

theorem vmAct_pokePat {a : Nat} {b : Byte} {s t : State} (h : vmPokePat a b s = .next t) : VmAct s t := by
  unfold vmPokePat at h
  split at h
  case isTrue ha => cases h; exact ⟨rfl, rfl, fun hm => ⟨hm.1, Memory.wf_write hm.2 b ha⟩⟩
  case isFalse => cases h

/-- A step that completes idles, runs a host operation, or applies an act of the VM; the request it takes leaves
the queue before. -/
theorem step_next_cases {s t : State} (h : step s = .next t) :
    t = s ∨ ∃ rest,
      (∃ i, i.format = .hostOp ∧ exec i { s with queue := rest } = .next t) ∨
      VmAct { s with queue := rest } t := by
  unfold step at h
  split at h
  case h_1 => cases h; exact .inl rfl
  case h_2 call rest hq =>
    split at h
    case h_1 i hd => exact .inr ⟨rest, .inl ⟨i, decodeCall_format hd, h⟩⟩
    case h_2 => cases h
  case h_3 a b rest hq => exact .inr ⟨rest, .inr (vmAct_pokeInstr h)⟩
  case h_4 a b rest hq => exact .inr ⟨rest, .inr (vmAct_pokePat h)⟩
  all_goals
    cases h
    exact .inr ⟨_, .inr ⟨rfl, rfl, id⟩⟩

theorem VmAct.keeps_inv {s t : State} (h : VmAct s t) :
    (ControlInv s → ControlInv t) ∧ (MachineInv s → MachineInv t) := by
  obtain ⟨hcfg, heng, hmem⟩ := h
  unfold ControlInv MachineInv
  rw [hcfg, heng]
  exact ⟨fun ⟨hc, he, hm⟩ => ⟨hc, he, hmem hm⟩, fun ⟨hc, he, hm⟩ => ⟨hc, he, hmem hm⟩⟩

/-- Settles O59: a host operation keeps both invariants, an act of the VM writes the inputs alone, and neither
invariant reads the queue. -/
theorem everyStepKeepsWellFormedness : Obligations.EveryStepKeepsWellFormedness := by
  intro s t h
  obtain rfl | ⟨rest, ⟨i, hf, hi⟩ | hact⟩ := step_next_cases h
  · exact ⟨id, id⟩
  · exact exec_keeps_inv (s := { s with queue := rest }) hf hi
  · exact hact.keeps_inv

/-! ### The invariant holds at reset -/

theorem machineInv_resetOf {cfg : Config} (hc : cfg.WF) : MachineInv (State.resetOf cfg) :=
  ⟨hc, engineReset_wf hc, rfl, rfl⟩

theorem configDefault_wf : Config.default.WF := by
  refine ⟨?_, ?_, by decide, by decide, by decide, by decide⟩ <;> norm_num [Config.default, Numerics.default]

/-- Settles O58: under every configuration in its domain the reset engine is well formed, and the default one is in
it. -/
theorem resetMeetsTheMachineInvariant : Obligations.ResetMeetsTheMachineInvariant :=
  ⟨machineInv_resetOf configDefault_wf, fun _ hc =>
    ⟨controlInv_of_machineInv (machineInv_resetOf hc), machineInv_resetOf hc⟩⟩

end Sys2Proof.Machine
end

section
/-! SAMPLE, GENERATE and UPDATE as 45_sample_mixer_output.md R227 and 47_host_operations.md R250 to R255 compose
them: GENERATE as SAMPLE repeated, a block cut anywhere, the range of its samples, the demand an UPDATE meets;
and from these that every well-formed operation completes (60_exceptions.md R265). -/

namespace Sys2Proof.Machine

open Sys2Proof.Claims

/-! ### The range of a sample -/

/-- The output stage clamps before it scales, and no rounding passes the whole number PCM_SCALE. -/
theorem output_mem (cfg : Config) (distort : Bool) (mix : F) :
    -(cfg.pcmScale : Int) ≤ output cfg distort mix ∧ output cfg distort mix ≤ (cfg.pcmScale : Int) := by
  unfold output
  dsimp only
  generalize fmul cfg.numerics (if distort then distorted cfg mix else mix) (rnd cfg.numerics (1 / 2)) = x
  have hlo : -1 ≤ clamp x (-1) 1 := le_clamp _ _ _
  have hhi : clamp x (-1) 1 ≤ 1 := clamp_le (by norm_num)
  have hscale : (0 : F) ≤ (cfg.pcmScale : F) := Nat.cast_nonneg _
  have low : ((-(cfg.pcmScale : Int) : Int) : F) ≤ clamp x (-1) 1 * (cfg.pcmScale : F) := by
    push_cast
    nlinarith
  have high : clamp x (-1) 1 * (cfg.pcmScale : F) ≤ (((cfg.pcmScale : Int)) : F) := by
    push_cast
    nlinarith
  have low' := le_rnd cfg.numerics low
  rw [Int.cast_neg] at low'
  exact ⟨le_trunc_of_le (Int.natCast_nonneg _) low', trunc_le_of_le (Int.natCast_nonneg _) (rnd_le _ high)⟩

theorem sampleEngine_pcm_mem {cfg : Config} {inp : Inputs} {e : Engine} {p : Produced}
    (h : sampleEngine cfg inp e = .next p) : -(cfg.pcmScale : Int) ≤ p.pcm ∧ p.pcm ≤ cfg.pcmScale := by
  obtain ⟨-, hq⟩ | ⟨-, -, hq⟩ | ⟨-, -, hq⟩ := sampleEngine_cases cfg inp e <;> cases h.symm.trans hq
  · simp
  · exact output_mem cfg inp.distort _

/-! ### One more sample of a block -/

section
variable {cfg : Config} {inp : Inputs} {k : Nat} {e : Engine}

theorem generateEngine_succ_of_next {p : Produced} {b : Block} (hp : sampleEngine cfg inp e = .next p)
    (hb : generateEngine cfg inp k p.eng = .next b) :
    generateEngine cfg inp (k + 1) e = .next ⟨b.eng, p.pcm :: b.pcm⟩ := by
  simp only [generateEngine, hp, hb]

theorem generateEngine_succ_of_refused {r : Refusal} (hp : sampleEngine cfg inp e = .refused r) :
    generateEngine cfg inp (k + 1) e = .refused r := by
  simp only [generateEngine, hp]

theorem generateEngine_succ_of_rest_refused {p : Produced} {r : Refusal}
    (hp : sampleEngine cfg inp e = .next p) (hb : generateEngine cfg inp k p.eng = .refused r) :
    generateEngine cfg inp (k + 1) e = .refused r := by
  simp only [generateEngine, hp, hb]

theorem generateEngine_succ_next {b : Block} (h : generateEngine cfg inp (k + 1) e = .next b) :
    ∃ p rest, sampleEngine cfg inp e = .next p ∧ generateEngine cfg inp k p.eng = .next rest ∧
      b = ⟨rest.eng, p.pcm :: rest.pcm⟩ := by
  rw [generateEngine] at h
  split at h
  case h_1 p hp =>
    split at h
    case h_1 rest hrest => cases h; exact ⟨p, rest, hp, hrest, rfl⟩
    case h_2 => cases h
    case h_3 => cases h
  case h_2 => cases h
  case h_3 => cases h

end

/-- A block of `a` samples and then one of `b` make the block of `a + b` (R250). -/
theorem generateEngine_add {cfg : Config} {inp : Inputs} {a b : Nat} {e : Engine} {first second : Block}
    (h1 : generateEngine cfg inp a e = .next first)
    (h2 : generateEngine cfg inp b first.eng = .next second) :
    generateEngine cfg inp (a + b) e = .next ⟨second.eng, first.pcm ++ second.pcm⟩ := by
  induction a generalizing e first with
  | zero => cases h1; rw [Nat.zero_add, h2]; rfl
  | succ a ih =>
    obtain ⟨p, rest, hp, hrest, rfl⟩ := generateEngine_succ_next h1
    rw [Nat.succ_add, generateEngine_succ_of_next hp (ih hrest h2)]
    rfl

theorem generateEngine_pcm_mem {cfg : Config} {inp : Inputs} {k : Nat} {e : Engine} {b : Block}
    (h : generateEngine cfg inp k e = .next b) :
    ∀ v ∈ b.pcm, -(cfg.pcmScale : Int) ≤ v ∧ v ≤ cfg.pcmScale := by
  induction k generalizing e b with
  | zero => cases h; simp
  | succ k ih =>
    obtain ⟨p, rest, hp, hrest, rfl⟩ := generateEngine_succ_next h
    exact List.forall_mem_cons.2 ⟨sampleEngine_pcm_mem hp, ih hrest⟩

/-! ### The operations -/

theorem exec_sample (s : State) : exec .sample s = execSample s := rfl

theorem execSample_of_produced {s : State} {p : Produced} (h : sampleEngine s.cfg s.inp s.eng = .next p) :
    execSample s = .next ((s.withEngine p.eng).withResult (.pcm p.pcm)) := by
  simp only [execSample, h]

theorem execSample_of_refused {s : State} {r : Refusal} (h : sampleEngine s.cfg s.inp s.eng = .refused r) :
    execSample s = .refused r := by
  simp only [execSample, h]

theorem execSample_refused {s : State} {r : Refusal} (h : execSample s = .refused r) :
    sampleEngine s.cfg s.inp s.eng = .refused r := by
  unfold execSample at h
  split at h
  case h_1 => cases h
  case h_2 => cases h
  case h_3 r' hr => cases h; exact hr

theorem execGenerate_of_refused {s : State} {k : Nat} {r : Refusal}
    (h : generateEngine s.cfg s.inp k s.eng = .refused r) : execGenerate k s = .refused r := by
  simp only [execGenerate, if_pos (Int.natCast_nonneg k), Int.toNat_natCast, h]

theorem execGenerate_refused {s : State} {k : Nat} {r : Refusal} (h : execGenerate k s = .refused r) :
    generateEngine s.cfg s.inp k s.eng = .refused r := by
  rw [execGenerate, if_pos (Int.natCast_nonneg k), Int.toNat_natCast] at h
  split at h
  case h_1 => cases h
  case h_2 => cases h
  case h_3 r' hr => cases h; exact hr

/-- A GENERATE of a natural count that completes, with its block. -/
theorem execGenerate_natCast_next {s t : State} {k : Nat} (h : execGenerate k s = .next t) :
    ∃ b, generateEngine s.cfg s.inp k s.eng = .next b ∧
      t = (s.withEngine b.eng).withResult (.samples b.pcm) := by
  obtain ⟨-, b, hb, ht⟩ := execGenerate_next h
  exact ⟨b, hb, ht⟩

theorem execUpdate_of_block {s : State} {n : Nat} {b : Block} (hn : pullCount s.cfg s.eng = n)
    (h : generateEngine s.cfg s.inp n { s.eng with pullAcc := pullDemand s.cfg s.eng - (n : F) } = .next b) :
    execUpdate s = .next (((s.withEngine b.eng).deliver b.pcm).withResult (.samples b.pcm)) := by
  simp only [execUpdate, hn, if_pos (Int.natCast_nonneg n), Int.toNat_natCast, Int.cast_natCast, h]

theorem execUpdate_of_neg {s : State} (h : pullCount s.cfg s.eng < 0) :
    execUpdate s = .refused (.operandOutsideDomain "GENERATE") :=
  if_neg (Int.not_le.mpr h)

/-! ### GENERATE as repeated SAMPLE -/

/-- Settles O45: each clause is the engine's own recursion, read off the results of the two operations. -/
theorem generateIsRepeatedSample : Obligations.GenerateIsRepeatedSample := by
  intro s k
  simp only [exec_generate, exec_sample]
  refine ⟨fun t v ht hv u vs hu hvs => ?_, fun x hx => ?_, fun t x ht hx => ?_⟩
  · obtain ⟨p, hp, rfl⟩ := execSample_next ht
    obtain ⟨b, hb, rfl⟩ := execGenerate_natCast_next hu
    cases hv
    cases hvs
    rw [execGenerate_of_block (generateEngine_succ_of_next hp hb)]
    rfl
  · exact execGenerate_of_refused (generateEngine_succ_of_refused (execSample_refused hx))
  · obtain ⟨p, hp, rfl⟩ := execSample_next ht
    exact execGenerate_of_refused (generateEngine_succ_of_rest_refused hp (execGenerate_refused hx))

/-- Settles O46: the two blocks join in the engine, and each GENERATE leaves its block's engine. -/
theorem generateSplitsAnywhere : Obligations.GenerateSplitsAnywhere := by
  intro s t u a b va vb ht hva hu hvb
  rw [exec_generate] at ht hu ⊢
  obtain ⟨first, hfirst, rfl⟩ := execGenerate_natCast_next ht
  obtain ⟨second, hsecond, rfl⟩ := execGenerate_natCast_next hu
  cases hva
  cases hvb
  rw [execGenerate_of_block (generateEngine_add hfirst hsecond)]
  rfl

/-! ### Completion -/

/-- The accumulator of UPDATE under the invariant (10_state.md R48). -/
theorem pullAcc_nonneg_of_control {s : State} (h : ControlInv s) : 0 ≤ s.eng.pullAcc := h.2.1.2

theorem sampleEngine_of_control {s : State} (h : ControlInv s) :
    ∃ p, sampleEngine s.cfg s.inp s.eng = .next p ∧ p.eng.musicMask = s.eng.musicMask ∧
      p.eng.pullAcc = s.eng.pullAcc := by
  obtain ⟨hc, he, -⟩ := h
  obtain ⟨p, hp, -, hmask, hpull⟩ := sampleEngine_ok (channelControl_inv s.cfg) (samplesPerTick_pos hc) s.inp he
  exact ⟨p, hp, hmask, hpull⟩

theorem generateEngine_of_control {cfg : Config} (hc : cfg.WF) (inp : Inputs) {e : Engine}
    (he : EngineControlWF cfg e) (k : Nat) :
    ∃ b, generateEngine cfg inp k e = .next b ∧ b.eng.pullAcc = e.pullAcc ∧ b.pcm.length = k := by
  obtain ⟨b, hb, -, -, hpull, hlen⟩ := generateEngine_ok (channelControl_inv cfg) (samplesPerTick_pos hc) inp k he
  exact ⟨b, hb, hpull, hlen⟩

/-- Settles O40: the sample completes from the cursors' bounds, its value is an output, and SAMPLE keeps the
invariants as every host operation does. -/
theorem sampleCompletesWithinScale : Obligations.SampleCompletesWithinScale := by
  intro s hs
  obtain ⟨p, hp, hmask, hpull⟩ := sampleEngine_of_control hs
  have run : exec .sample s = .next ((s.withEngine p.eng).withResult (.pcm p.pcm)) := execSample_of_produced hp
  obtain ⟨low, high⟩ := sampleEngine_pcm_mem hp
  obtain ⟨control, machine⟩ := exec_keeps_inv rfl run
  exact ⟨_, p.pcm, run, rfl, low, high, control hs, machine, hpull, hmask, rfl, rfl, rfl, rfl, rfl⟩

/-- Settles O47: the same for a block, whose length and range are the engine's. -/
theorem generateCompletesWithCountSamples : Obligations.GenerateCompletesWithCountSamples := by
  intro s k hs
  have ⟨hc, he, _⟩ := hs
  obtain ⟨b, hb, hpull, hlen⟩ := generateEngine_of_control hc s.inp he k
  have run : exec (.generate k) s = .next ((s.withEngine b.eng).withResult (.samples b.pcm)) :=
    execGenerate_of_block hb
  obtain ⟨control, machine⟩ := exec_keeps_inv rfl run
  exact ⟨_, b.pcm, run, rfl, hlen, generateEngine_pcm_mem hb, control hs, machine, hpull, rfl, rfl, rfl, rfl, rfl⟩

/-! ### UPDATE -/

/-- The capped count as a natural number, where the accumulator is not negative (R254). -/
theorem pullCount_eq_natCast (cfg : Config) {e : Engine} (h : 0 ≤ e.pullAcc) :
    pullCount cfg e = ((min ⌊pullDemand cfg e⌋.toNat cfg.pullCap : Nat) : Int) := by
  have := Int.floor_nonneg.2 (pullDemand_nonneg cfg h)
  rw [pullCount_eq_min]
  omega

theorem pullCount_neg {cfg : Config} {e : Engine} (h : pullDemand cfg e < 0) : pullCount cfg e < 0 := by
  have := Int.floor_lt.2 (by rwa [Int.cast_zero] : pullDemand cfg e < ((0 : Int) : F))
  rw [pullCount_eq_min]
  omega

/-- An UPDATE delivers the block of a GENERATE of the capped count that starts from the remainder. -/
theorem execUpdate_of_control {s : State} (hs : ControlInv s) {n : Nat} (hn : pullCount s.cfg s.eng = n) :
    ∃ b, generateEngine s.cfg s.inp n { s.eng with pullAcc := pullDemand s.cfg s.eng - (n : F) } = .next b ∧
      b.eng.pullAcc = pullDemand s.cfg s.eng - (n : F) ∧ b.pcm.length = n ∧
      execUpdate s = .next (((s.withEngine b.eng).deliver b.pcm).withResult (.samples b.pcm)) := by
  obtain ⟨hc, he, -⟩ := hs
  have hrem := carried_remainder_ok (Q := ChannelControlWF) he
  rw [hn, Int.cast_natCast] at hrem
  obtain ⟨b, hb, hpull, hlen⟩ := generateEngine_of_control hc s.inp hrem n
  exact ⟨b, hb, hpull, hlen, execUpdate_of_block hn hb⟩

/-- Settles O48: where the accumulator is not negative the count is the capped floor; a negative demand makes the
count negative. -/
theorem updateDeliversTheDueBlock : Obligations.UpdateDeliversTheDueBlock := by
  intro s demand n
  refine ⟨fun hs => ?_, fun hneg => execUpdate_of_neg (pullCount_neg hneg)⟩
  have hn : pullCount s.cfg s.eng = n := pullCount_eq_natCast s.cfg (pullAcc_nonneg_of_control hs)
  obtain ⟨b, hb, hpull, hlen, run⟩ := execUpdate_of_control hs hn
  exact ⟨_, _, b.pcm, execGenerate_of_block hb, rfl, hlen, run, rfl, hpull⟩

/-! ### Sixty UPDATEs -/

/-- Below the cap an UPDATE delivers the whole samples of the demand and keeps the fraction. -/
theorem update_below_cap {s : State} (hs : ControlInv s) (hlt : s.eng.pullAcc < 1)
    (hcap : s.cfg.nativeRate + 60 ≤ 60 * s.cfg.pullCap) :
    ∃ (t : State) (block : List Int), exec .update s = .next t ∧ t.sink = s.sink ++ [block] ∧ ControlInv t ∧
      t.cfg = s.cfg ∧ t.eng.pullAcc < 1 ∧
      t.eng.pullAcc + (block.length : F) = s.eng.pullAcc + (s.cfg.nativeRate : F) / 60 := by
  have hcap' : (s.cfg.nativeRate : F) + 60 ≤ 60 * (s.cfg.pullCap : F) := by exact_mod_cast hcap
  have hdemand : pullDemand s.cfg s.eng = s.eng.pullAcc + (s.cfg.nativeRate : F) / 60 := rfl
  have hfloor : ⌊pullDemand s.cfg s.eng⌋ ≤ (s.cfg.pullCap : Int) := by
    refine Int.floor_le_iff.2 ?_
    rw [hdemand, Int.cast_natCast]
    linarith
  have hn := pullCount_eq_natCast s.cfg (pullAcc_nonneg_of_control hs)
  obtain ⟨b, -, hpull, hlen, run⟩ := execUpdate_of_control hs hn
  have hint : ((b.pcm.length : Nat) : Int) = ⌊pullDemand s.cfg s.eng⌋ := by
    rw [hlen, ← hn, pullCount_eq_min, min_eq_left hfloor]
  have hrat : (b.pcm.length : F) = (⌊pullDemand s.cfg s.eng⌋ : F) := by exact_mod_cast hint
  rw [← hlen] at hpull
  have hfrac := Int.lt_floor_add_one (pullDemand s.cfg s.eng)
  refine ⟨_, b.pcm, run, rfl, (exec_keeps_inv (i := .update) rfl run).1 hs, rfl, ?_, ?_⟩
  · show b.eng.pullAcc < 1
    rw [hpull, hrat]
    linarith
  · show b.eng.pullAcc + _ = _
    rw [hpull, ← hdemand]
    ring

theorem times_succ_of_next {i : Instr} {k : Nat} {s t : State} (h : exec i s = .next t) :
    times i (k + 1) s = times i k t := by
  rw [times, h]

/-- Over any number of UPDATEs below the cap, what the blocks hold and the accumulator keeps is the demand. -/
theorem times_update_below_cap (k : Nat) {s : State} (hs : ControlInv s) (hlt : s.eng.pullAcc < 1)
    (hcap : s.cfg.nativeRate + 60 ≤ 60 * s.cfg.pullCap) :
    ∃ (t : State) (blocks : List (List Int)), times .update k s = .next t ∧ t.sink = s.sink ++ blocks ∧
      blocks.length = k ∧ (0 ≤ t.eng.pullAcc ∧ t.eng.pullAcc < 1) ∧
      t.eng.pullAcc + (sampleCount blocks : F) = s.eng.pullAcc + k * ((s.cfg.nativeRate : F) / 60) := by
  induction k generalizing s with
  | zero => exact ⟨s, [], rfl, by simp, rfl, ⟨pullAcc_nonneg_of_control hs, hlt⟩, by simp [sampleCount]⟩
  | succ k ih =>
    obtain ⟨u, block, run, hsink, hu, hcfg, hltu, hsum⟩ := update_below_cap hs hlt hcap
    obtain ⟨t, blocks, runs, hsinks, hlen, hmem, hsums⟩ := ih hu hltu (by rwa [hcfg])
    refine ⟨t, block :: blocks, (times_succ_of_next run).trans runs, ?_, by simp [hlen], hmem, ?_⟩
    · rw [hsinks, hsink, List.append_assoc, List.singleton_append]
    · rw [hcfg] at hsums
      simp only [sampleCount, List.map_cons, List.sum_cons, Nat.cast_add, Nat.cast_one] at hsums ⊢
      linarith

/-- Settles O49: sixty demands are one second's samples, so the fraction left over is a whole number. -/
theorem sixtyUpdatesDeliverOneSecond : Obligations.SixtyUpdatesDeliverOneSecond := by
  intro s hs hempty hcap
  obtain ⟨t, blocks, runs, hsink, hlen, ⟨hnonneg, hlt⟩, hsum⟩ :=
    times_update_below_cap 60 hs (by rw [hempty]; norm_num) hcap
  have htotal : t.eng.pullAcc + (sampleCount blocks : F) = (s.cfg.nativeRate : F) := by
    rw [hsum, hempty]
    push_cast
    ring
  have hle : sampleCount blocks ≤ s.cfg.nativeRate := by
    have : (sampleCount blocks : F) ≤ (s.cfg.nativeRate : F) := by linarith
    exact_mod_cast this
  have hge : s.cfg.nativeRate < sampleCount blocks + 1 := by
    have : (s.cfg.nativeRate : F) < (sampleCount blocks : F) + 1 := by linarith
    exact_mod_cast this
  have hcount : sampleCount blocks = s.cfg.nativeRate := by omega
  refine ⟨t, blocks, runs, hsink, hlen, hcount, ?_⟩
  rw [hcount] at htotal
  linarith

/-! ### Every well-formed operation completes -/

theorem exec_completes {s : State} (hs : ControlInv s) {i : Instr} (hf : i.format = .hostOp)
    (hi : i.WellFormed s.cfg) : ∃ t, exec i s = .next t := by
  cases i with
  | effNone | effSlide | effVibrato | effDrop | effFadeIn | effFadeOut | effRsv6 | effRsv7
  | waveTri | waveTilt | waveSaw | waveSquare | wavePulse | waveOrgan | wavePhaser | waveNoise
  | patPlay | patSilent | patLoopStart | patLoopBack | patStop | patNext | note | hdr => cases hf
  | reset | musicStop | getState => exact ⟨_, rfl⟩
  | trigger n chan r0 => exact ⟨_, if_pos hi⟩
  | musicStart p mask => exact ⟨_, if_pos hi⟩
  | sample =>
    obtain ⟨p, hp, -⟩ := sampleEngine_of_control hs
    exact ⟨_, execSample_of_produced hp⟩
  | generate count =>
    lift count to ℕ using hi
    have ⟨hc, he, _⟩ := hs
    obtain ⟨b, hb, -⟩ := generateEngine_of_control hc s.inp he count
    exact ⟨_, execGenerate_of_block hb⟩
  | update =>
    obtain ⟨b, -, -, -, run⟩ := execUpdate_of_control hs (pullCount_eq_natCast s.cfg (pullAcc_nonneg_of_control hs))
    exact ⟨_, run⟩
  | setState x => exact ⟨_, execSetState_of_wf hi⟩

/-! ### The step's branches -/

theorem step_of_call {s : State} {h : HostCall} {rest : List Request} {i : Instr}
    (hq : s.queue = .call h :: rest) (hd : decode s.cfg.waveMap (.call h) = .ok i) :
    step s = exec i { s with queue := rest } := by
  simp only [step, hq, hd]

/-- Settles O1: the step's call branch. -/
theorem stepRunsDecodedCall : Obligations.StepRunsDecodedCall := fun _ _ _ _ hq hd => step_of_call hq hd

/-- Settles O2: the step's branch for an empty queue. -/
theorem stepWithoutRequestIsIdle : Obligations.StepWithoutRequestIsIdle := by
  intro s hq
  simp only [step, hq]

/-- Settles O57: the step's branch for each setting, and the field that setting's act writes. -/
theorem vmSettingsReachOneInput : Obligations.VmSettingsReachOneInput := by
  intro s rest v b
  refine ⟨fun hq => ?_, fun hq => ?_, fun hq => ?_, fun hq => ?_⟩
  · simp only [step, hq, vmSetVolMusic]
  · simp only [step, hq, vmSetVolSfx]
  · simp only [step, hq, vmSetMute]
  · simp only [step, hq, vmSetDistort]

/-- Settles O60: what a call decodes to is a host operation, and the invariant does not read the queue. -/
theorem wellFormedOperationsAlwaysComplete : Obligations.WellFormedOperationsAlwaysComplete := by
  intro s h rest i hs hq hd hi
  obtain ⟨t, ht⟩ := exec_completes (s := { s with queue := rest }) hs (decodeCall_format hd) hi
  exact ⟨t, (step_of_call hq hd).trans ht⟩

end Sys2Proof.Machine
end

section
/-! The two fields of S that no operation of the sound path reads: `music_mask` (10_state.md R45) and `pull_acc`
(R48). A change of either commutes with the tick, the dispatch, the render and so with every instruction that does
not name the field; from this follow the round trip of a snapshot and what a resumed GENERATE gives. -/

namespace Sys2Proof.Machine

open Sys2Proof.Claims

/-- S with `music_mask` and `pull_acc` changed, every other field as before. -/
def Engine.mapBystanders (fm : Nat → Nat) (fp : F → F) (e : Engine) : Engine :=
  { e with musicMask := fm e.musicMask, pullAcc := fp e.pullAcc }

/-- The state with that S. -/
def State.mapBystanders (fm : Nat → Nat) (fp : F → F) (s : State) : State :=
  s.withEngine (s.eng.mapBystanders fm fp)

/-- Another `pull_acc` is a change of the bystanders. -/
theorem withPull_eq_mapBystanders (p : F) : withPull p = State.mapBystanders id fun _ => p := rfl

/-- Another `music_mask` is a change of the bystanders. -/
theorem withMask_eq_mapBystanders (m : Nat) : withMask m = State.mapBystanders (fun _ => m) id := rfl

section
variable (fm : Nat → Nat) (fp : F → F)

/-! ### The tick -/

theorem playEntry_mapBystanders (inp : Inputs) (p : Nat) (c : ChanId) (e : Engine) (m : Option Nat) :
    playEntry inp p c ⟨e.mapBystanders fm fp, m⟩ =
      ⟨(playEntry inp p c ⟨e, m⟩).eng.mapBystanders fm fp, (playEntry inp p c ⟨e, m⟩).m⟩ := by
  unfold playEntry
  split_ifs <;> rfl

theorem playEntries_mapBystanders (inp : Inputs) (e : Engine) :
    playEntries inp (e.mapBystanders fm fp) =
      ⟨(playEntries inp e).eng.mapBystanders fm fp, (playEntries inp e).m⟩ := by
  have pattern : (e.mapBystanders fm fp).musicPattern = e.musicPattern := rfl
  simp only [playEntries, pattern, playEntry_mapBystanders]

theorem applyMark_mapBystanders (b : Byte) (e : Engine) :
    applyMark b (e.mapBystanders fm fp) = (applyMark b e).mapBystanders fm fp := by
  unfold applyMark
  split_ifs <;> rfl

theorem patNext_mapBystanders (e : Engine) :
    patNext (e.mapBystanders fm fp) = (patNext e).mapBystanders fm fp := by
  have pattern : (e.mapBystanders fm fp).musicPattern = e.musicPattern := rfl
  unfold patNext
  rw [pattern]
  split_ifs <;> rfl

theorem applyAdvance_mapBystanders (b1 b2 : Byte) (e : Engine) :
    applyAdvance b1 b2 (e.mapBystanders fm fp) = (applyAdvance b1 b2 e).mapBystanders fm fp := by
  unfold applyAdvance
  split_ifs
  · rfl
  · rfl
  · exact patNext_mapBystanders fm fp e

theorem dispatch_mapBystanders (inp : Inputs) (e : Engine) :
    dispatch inp (e.mapBystanders fm fp) = (dispatch inp e).mapBystanders fm fp := by
  have pattern : (e.mapBystanders fm fp).musicPattern = e.musicPattern := rfl
  have reload : reloadMusic ⟨(playEntries inp e).eng.mapBystanders fm fp, (playEntries inp e).m⟩ =
      (reloadMusic (playEntries inp e)).mapBystanders fm fp := rfl
  rw [dispatch, playEntries_mapBystanders, reload, applyMark_mapBystanders, applyAdvance_mapBystanders, pattern,
    dispatch]

theorem musicTick_mapBystanders (inp : Inputs) (e : Engine) :
    musicTick inp (e.mapBystanders fm fp) = (musicTick inp e).mapBystanders fm fp := by
  have playing : (e.mapBystanders fm fp).musicPlaying = e.musicPlaying := rfl
  have timer : (e.mapBystanders fm fp).musicTickTimer = e.musicTickTimer := rfl
  unfold musicTick
  rw [playing, timer]
  split_ifs
  · exact dispatch_mapBystanders fm fp inp { e with musicTickTimer := e.musicTickTimer - 1 }
  · rfl
  · rfl

theorem tickPart_mapBystanders (cfg : Config) (inp : Inputs) (e : Engine) :
    tickPart cfg inp (e.mapBystanders fm fp) = (tickPart cfg inp e).mapBystanders fm fp := by
  have acc : (e.mapBystanders fm fp).tickAcc = e.tickAcc := rfl
  unfold tickPart tick
  rw [acc, musicTick_mapBystanders]
  split_ifs <;> rfl

/-! ### Samples and blocks -/

/-- The same outcome with the engine it leaves changed. -/
def Produced.mapBystanders (p : Produced) : Produced := ⟨p.eng.mapBystanders fm fp, p.pcm⟩

/-- The same block with the engine it leaves changed. -/
def Block.mapBystanders (b : Block) : Block := ⟨b.eng.mapBystanders fm fp, b.pcm⟩

/-- The same outcome with what it carries changed by `f`. -/
def mapNext {α : Type} (f : α → α) : Host.Outcome α Fault Refusal → Host.Outcome α Fault Refusal
  | .next a => .next (f a)
  | .fault x => .fault x
  | .refused r => .refused r

theorem sampleEngine_mapBystanders (cfg : Config) (inp : Inputs) (e : Engine) :
    sampleEngine cfg inp (e.mapBystanders fm fp) =
      mapNext (Produced.mapBystanders fm fp) (sampleEngine cfg inp e) := by
  have cursors : CursorsOk (e.mapBystanders fm fp) ↔ CursorsOk e := Iff.rfl
  unfold sampleEngine
  rw [tickPart_mapBystanders]
  simp only [cursors]
  split_ifs <;> rfl

theorem generateEngine_mapBystanders (cfg : Config) (inp : Inputs) (k : Nat) (e : Engine) :
    generateEngine cfg inp k (e.mapBystanders fm fp) =
      mapNext (Block.mapBystanders fm fp) (generateEngine cfg inp k e) := by
  induction k generalizing e with
  | zero => rfl
  | succ k ih =>
    simp only [generateEngine, sampleEngine_mapBystanders]
    cases sampleEngine cfg inp e with
    | next p =>
      simp only [mapNext, Produced.mapBystanders, ih]
      cases generateEngine cfg inp k p.eng <;> rfl
    | fault x => rfl
    | refused r => rfl

/-! ### The instructions -/

theorem execSample_mapBystanders (s : State) :
    execSample (s.mapBystanders fm fp) = mapState (State.mapBystanders fm fp) (execSample s) := by
  have same : sampleEngine (s.mapBystanders fm fp).cfg (s.mapBystanders fm fp).inp (s.mapBystanders fm fp).eng =
      mapNext (Produced.mapBystanders fm fp) (sampleEngine s.cfg s.inp s.eng) :=
    sampleEngine_mapBystanders fm fp s.cfg s.inp s.eng
  unfold execSample
  rw [same]
  cases sampleEngine s.cfg s.inp s.eng <;> rfl

theorem execGenerate_mapBystanders (count : Int) (s : State) :
    execGenerate count (s.mapBystanders fm fp) = mapState (State.mapBystanders fm fp) (execGenerate count s) := by
  have same : generateEngine (s.mapBystanders fm fp).cfg (s.mapBystanders fm fp).inp count.toNat
      (s.mapBystanders fm fp).eng =
        mapNext (Block.mapBystanders fm fp) (generateEngine s.cfg s.inp count.toNat s.eng) :=
    generateEngine_mapBystanders fm fp s.cfg s.inp count.toNat s.eng
  unfold execGenerate
  rw [same]
  split
  · cases generateEngine s.cfg s.inp count.toNat s.eng <;> rfl
  · rfl

theorem execTrigger_mapBystanders (n : Int) (chan r0 : Option Int) (s : State) :
    execTrigger n chan r0 (s.mapBystanders fm fp) =
      mapState (State.mapBystanders fm fp) (execTrigger n chan r0 s) := by
  unfold execTrigger
  split <;> rfl

/-- An UPDATE reads `pull_acc`, so only a change of `music_mask` commutes with it. -/
theorem execUpdate_mapMask (s : State) :
    execUpdate (s.mapBystanders fm id) = mapState (State.mapBystanders fm id) (execUpdate s) := by
  have count : pullCount (s.mapBystanders fm id).cfg (s.mapBystanders fm id).eng = pullCount s.cfg s.eng := rfl
  have same : generateEngine (s.mapBystanders fm id).cfg (s.mapBystanders fm id).inp
      (pullCount s.cfg s.eng).toNat
      { (s.mapBystanders fm id).eng with
        pullAcc := pullDemand (s.mapBystanders fm id).cfg (s.mapBystanders fm id).eng -
          (pullCount s.cfg s.eng : F) } =
        mapNext (Block.mapBystanders fm id) (generateEngine s.cfg s.inp (pullCount s.cfg s.eng).toNat
          { s.eng with pullAcc := pullDemand s.cfg s.eng - (pullCount s.cfg s.eng : F) }) :=
    generateEngine_mapBystanders fm id s.cfg s.inp _
      { s.eng with pullAcc := pullDemand s.cfg s.eng - (pullCount s.cfg s.eng : F) }
  dsimp only [execUpdate]
  rw [count, same]
  split
  · cases generateEngine s.cfg s.inp (pullCount s.cfg s.eng).toNat
      { s.eng with pullAcc := pullDemand s.cfg s.eng - (pullCount s.cfg s.eng : F) } <;> rfl
  · rfl

/-- The instructions that name `music_mask` or `pull_acc`. -/
def NamesBystander : Instr → Prop
  | .reset | .musicStart _ _ | .update | .getState | .setState _ => True
  | _ => False

/-- Every instruction that names neither field does the same whatever they hold, and leaves them. -/
theorem exec_mapBystanders {i : Instr} (hi : ¬ NamesBystander i) (s : State) :
    exec i (s.mapBystanders fm fp) = mapState (State.mapBystanders fm fp) (exec i s) := by
  cases i with
  | reset | musicStart | update | getState | setState => exact absurd trivial hi
  | patNext => exact congrArg Host.Outcome.next (congrArg s.withEngine (patNext_mapBystanders fm fp s.eng))
  | trigger n chan r0 => exact execTrigger_mapBystanders fm fp n chan r0 s
  | sample => exact execSample_mapBystanders fm fp s
  | generate count => exact execGenerate_mapBystanders fm fp count s
  | effNone | effSlide | effVibrato | effDrop | effFadeIn | effFadeOut | effRsv6 | effRsv7
  | waveTri | waveTilt | waveSaw | waveSquare | wavePulse | waveOrgan | wavePhaser | waveNoise
  | patPlay | patSilent | patLoopStart | patLoopBack | patStop | note | hdr | musicStop => rfl

end

/-- Settles O53: of the five instructions that name a bystander, three leave `pull_acc` as it stands. -/
theorem pullAccumulatorReachesOnlyUpdate : Obligations.PullAccumulatorReachesOnlyUpdate := by
  intro i s p hupdate hreset
  by_cases hi : NamesBystander i
  · cases i with
    | reset => exact absurd rfl hreset
    | update => exact absurd rfl hupdate
    | getState => rfl
    | musicStart pattern mask =>
      simp only [exec, execMusicStart]
      split <;> rfl
    | setState x =>
      have cfg : (withPull p s).cfg = s.cfg := rfl
      simp only [exec, execSetState, cfg]
      split <;> rfl
    | _ => exact hi.elim
  · rw [withPull_eq_mapBystanders]
    exact exec_mapBystanders id (fun _ => p) hi s

/-- Settles O54: of the five instructions that name a bystander, UPDATE alone leaves `music_mask` as it stands. -/
theorem musicMaskIsInert : Obligations.MusicMaskIsInert := by
  intro i s m hreset hstart hget hset
  by_cases hi : NamesBystander i
  · cases i with
    | reset => exact absurd rfl hreset
    | update =>
      rw [withMask_eq_mapBystanders]
      exact execUpdate_mapMask (fun _ => m) s
    | getState => exact absurd rfl hget
    | musicStart pattern mask => exact absurd rfl (hstart pattern mask)
    | setState x => exact absurd rfl (hset x)
    | _ => exact hi.elim
  · rw [withMask_eq_mapBystanders]
    exact exec_mapBystanders (fun _ => m) id hi s

/-! ### The round trip of a snapshot -/

/-- An S with another's snapshot differs from it in `pull_acc` alone. -/
theorem withSnapshot_eq_mapBystanders (d e : Engine) :
    { d with toSnapshot := e.toSnapshot } = e.mapBystanders id fun _ => d.pullAcc := rfl

/-- Settles O52: SETSTATE puts the whole of S back, and into another state all of it but `pull_acc`, which
GENERATE does not read. -/
theorem snapshotRoundTripIsIdentity : Obligations.SnapshotRoundTripIsIdentity := by
  rintro s ⟨wf, -⟩
  refine ⟨_, s.eng.toSnapshot, exec_getState s, rfl, wf, execSetState_of_wf wf, fun u hcfg hinp => ?_⟩
  rw [← hcfg] at wf
  refine ⟨_, execSetState_of_wf wf, fun k s' hs' => ?_⟩
  obtain ⟨b, hb, rfl⟩ := execGenerate_natCast_next hs'
  have resumed : generateEngine u.cfg u.inp k { u.eng with toSnapshot := s.eng.toSnapshot } =
      .next (b.mapBystanders id fun _ => u.eng.pullAcc) := by
    rw [hcfg, hinp, withSnapshot_eq_mapBystanders, generateEngine_mapBystanders, hb]
    rfl
  exact ⟨_, execGenerate_of_block resumed, rfl, rfl⟩

end Sys2Proof.Machine
end

section
/-! A VM write between two operations (20_memory.md R71): inside the array it is the model's memory write, and
outside it is refused (log 17). -/

namespace Sys2Proof.Machine

/-- What a write inside the space leaves of a canonical memory. -/
theorem memory_write_spec {size : Nat} {m : Memory} (hm : Memory.wf size m = true) {a : Nat} (b : Byte)
    (ha : a < size) :
    Memory.wf size (Memory.write m a b) = true ∧
      ∀ x, Memory.read (Memory.write m a b) x = if x = a then b else Memory.read m x :=
  ⟨Memory.wf_write hm b ha, Memory.read_write hm a b⟩

section
variable {s : State} {a : Nat} {b : Byte} {rest : List Request}

theorem step_pokeInstr (hq : s.queue = .pokeInstr a b :: rest) :
    step s = vmPokeInstr a b { s with queue := rest } := by
  simp only [step, hq]

theorem step_pokePat (hq : s.queue = .pokePat a b :: rest) :
    step s = vmPokePat a b { s with queue := rest } := by
  simp only [step, hq]

theorem vmPokeInstr_of_lt (h : a < 4352) :
    vmPokeInstr a b s = .next { s with inp := { s.inp with instr := Memory.write s.inp.instr a b } } := if_pos h

theorem vmPokePat_of_lt (h : a < 256) :
    vmPokePat a b s = .next { s with inp := { s.inp with pat := Memory.write s.inp.pat a b } } := if_pos h

theorem vmPokeInstr_of_ge (h : 4352 ≤ a) : vmPokeInstr a b s = .refused (.vmWriteOutsideMemory a) :=
  if_neg (Nat.not_lt.mpr h)

theorem vmPokePat_of_ge (h : 256 ≤ a) : vmPokePat a b s = .refused (.vmWriteOutsideMemory a) :=
  if_neg (Nat.not_lt.mpr h)

end

/-- Settles O56: per memory, the write's own specification, and the other memory is not named. -/
theorem vmWriteChangesOneByte : Obligations.VmWriteChangesOneByte := by
  intro s a b rest ⟨hinstr, hpat⟩
  refine ⟨fun hq => ⟨fun ha => ?_, fun ha => ?_⟩, fun hq => ⟨fun ha => ?_, fun ha => ?_⟩⟩
  · obtain ⟨wf, read⟩ := memory_write_spec hinstr b ha
    exact ⟨_, (step_pokeInstr hq).trans (vmPokeInstr_of_lt ha), ⟨wf, hpat⟩, read⟩
  · exact (step_pokeInstr hq).trans (vmPokeInstr_of_ge ha)
  · obtain ⟨wf, read⟩ := memory_write_spec hpat b ha
    exact ⟨_, (step_pokePat hq).trans (vmPokePat_of_lt ha), ⟨hinstr, wf⟩, read⟩
  · exact (step_pokePat hq).trans (vmPokePat_of_ge ha)

end Sys2Proof.Machine
end

section
/-! The ticks of 42_tick_scheduler.md: what the music scheduler does at each of its three branches (R157 to R159),
the channel tick against the NOTE it runs (R169 to R179), and a looping channel over any number of ticks (R177). -/

namespace Sys2Proof.Machine

open Sys2Proof.Claims

/-! ### The music scheduler's branches -/

theorem musicTick_of_stopped {inp : Inputs} {e : Engine} (h : e.musicPlaying = false) : musicTick inp e = e := by
  simp only [musicTick, h, Bool.false_eq_true, if_false]

theorem musicTick_of_counting {inp : Inputs} {e : Engine} (h : e.musicPlaying = true) (ht : 2 ≤ e.musicTickTimer) :
    musicTick inp e = { e with musicTickTimer := e.musicTickTimer - 1 } := by
  rw [musicTick, if_pos h, if_neg (by omega)]

theorem musicTick_of_expiring {inp : Inputs} {e : Engine} (h : e.musicPlaying = true)
    (ht : e.musicTickTimer ≤ 1) :
    musicTick inp e = dispatch inp { e with musicTickTimer := e.musicTickTimer - 1 } := by
  rw [musicTick, if_pos h, if_pos (by omega)]

/-- Settles O27: the scheduler's first two branches. -/
theorem musicTimerCountsOnlyWhilePlaying : Obligations.MusicTimerCountsOnlyWhilePlaying :=
  fun _ _ => ⟨musicTick_of_stopped, musicTick_of_counting⟩

/-! ### NOTE -/

theorem exec_note (key : BitVec 6) (eff vol wave : BitVec 3) (s : State) :
    exec (.note key eff vol wave) s = .next (withCurChan s (latchNote key eff vol s.curChan)) := rfl

/-- Bit vectors are told apart by the numbers they hold. -/
theorem keepsOrigin_iff (eff vol : BitVec 3) : KeepsOrigin eff vol ↔ vol.toNat ≠ 0 ∧ eff.toNat = 1 := by
  rw [KeepsOrigin, ne_eq, ← BitVec.toNat_inj, ← BitVec.toNat_inj]
  rfl

/-- A latched row field by field, the cursor's move and the end of the note in one chain (R172 to R178). -/
theorem latchNote_eq (key : BitVec 6) (eff vol : BitVec 3) (ch : Channel) :
    latchNote key eff vol ch =
      { ch with
        effect := effectOfCode eff
        cs := { ch.cs with
          currentVol := (vol.toNat : F)
          currentPitchVal := (key.toNat : F)
          slideStartPitch :=
            if vol.toNat ≠ 0 ∧ eff.toNat = 1 then ch.cs.slideStartPitch else (key.toNat : F)
          lastNoteIdx := ch.cs.row
          row := if Wraps ch.cs (ch.cs.row + 1) then ch.cs.loopStart else ch.cs.row + 1
          sfxId := if Wraps ch.cs (ch.cs.row + 1) then ch.cs.sfxId
            else if ch.cs.row + 1 > 31 then -1 else ch.cs.sfxId } } := by
  have origin : (if KeepsOrigin eff vol then ch.cs.slideStartPitch else (key.toNat : F)) =
      if vol.toNat ≠ 0 ∧ eff.toNat = 1 then ch.cs.slideStartPitch else (key.toNat : F) :=
    if_congr (keepsOrigin_iff eff vol) rfl rfl
  have slot : (if ¬ Wraps ch.cs (ch.cs.row + 1) ∧ 31 < ch.cs.row + 1 then -1 else ch.cs.sfxId) =
      if Wraps ch.cs (ch.cs.row + 1) then ch.cs.sfxId
        else if ch.cs.row + 1 > 31 then -1 else ch.cs.sfxId := by
    by_cases hw : Wraps ch.cs (ch.cs.row + 1)
    · rw [if_pos hw, if_neg (fun h => h.1 hw)]
    · rw [if_neg hw]
      exact if_congr (and_iff_right hw) rfl rfl
  dsimp only [latchNote]
  rw [origin, slot]

/-- Settles O19: NOTE writes its channel back, latched. -/
theorem noteLatchesTheRowAndMovesTheCursor : Obligations.NoteLatchesTheRowAndMovesTheCursor := by
  intro key eff vol wave s
  rw [exec_note, latchNote_eq]
  rfl

/-! ### The channel tick -/

/-- Settles O20: the tick's three branches; at the fire the decoded NOTE latches into the channel whose counter has
been reloaded. -/
theorem channelTickRunsTheRowUnderTheCursor : Obligations.ChannelTickRunsTheRowUnderTheCursor := by
  intro s ch
  obtain ⟨hi, ht⟩ | ⟨hi, h2, ht⟩ | ⟨hi, h1, ht⟩ := channelTick_cases s.inp ch
  · exact ⟨fun _ => ht, fun h => absurd hi h, fun h => absurd hi h⟩
  · exact ⟨fun h => absurd h hi, fun _ _ => ht, fun _ _ => by omega⟩
  · refine ⟨fun h => absurd h hi, fun _ _ => by omega, fun _ _ => ?_⟩
    refine ⟨_, _, rfl, exec_note _ _ _ _ _, ?_⟩
    rw [ht]
    simp only [withCurChan, State.curChan, Engine.chan, bankGet_bankSet_self]
    rfl

/-! ### A looping channel -/

/-- The slot and the loop of a ChannelState are those of another. -/
structure SameLoop (a b : ChannelState) : Prop where
  sfxId      : b.sfxId = a.sfxId
  loopStart  : b.loopStart = a.loopStart
  loopEnd    : b.loopEnd = a.loopEnd
  loopActive : b.loopActive = a.loopActive

/-- The tick neither reads nor writes the child (41_channel_state_machine.md R147). -/
theorem channelTick_withChild (inp : Inputs) (ch : Channel) (d : ChannelState) :
    channelTick inp { ch with child := d } = { channelTick inp ch with child := d } := by
  unfold channelTick
  split_ifs <;> rfl

/-- A tick keeps the whole-number fields of a ChannelState, whatever its child holds. -/
theorem channelTick_cs_control {inp : Inputs} {ch : Channel} (h : ControlWF ch.cs) :
    ControlWF (channelTick inp ch).cs := by
  have twin := channelTick_control (inp := inp) (ch := { ch with child := ch.cs }) ⟨h, h⟩
  rw [channelTick_withChild] at twin
  exact twin.1

/-- A loop that ends inside the slot wraps before the row can pass 31, so no fire ends the note (R177). -/
theorem channelTick_sameLoop {inp : Inputs} {ch : Channel} (hactive : ch.cs.loopActive = true)
    (hend : ch.cs.loopEnd ≤ 32) : SameLoop ch.cs (channelTick inp ch).cs := by
  have wraps : 31 < ch.cs.row + 1 → Wraps ch.cs (ch.cs.row + 1) := fun hrow => ⟨hactive, by omega⟩
  obtain ⟨-, ht⟩ | ⟨-, -, ht⟩ | ⟨-, -, ht⟩ := channelTick_cases inp ch <;> rw [ht]
  · exact ⟨rfl, rfl, rfl, rfl⟩
  · exact ⟨rfl, rfl, rfl, rfl⟩
  · exact ⟨if_neg fun ⟨stays, hrow⟩ => stays (wraps hrow), rfl, rfl, rfl⟩

/-- Settles O21: one tick keeps the slot and the loop, and with them its own hypotheses, so any number does. -/
theorem loopingChannelNeverGoesIdle : Obligations.LoopingChannelNeverGoesIdle := by
  intro inputs
  induction inputs with
  | nil => exact fun ch hc _ hla _ => ⟨hc, rfl, rfl, rfl, hla⟩
  | cons inp inputs ih =>
    intro ch hc hslot hla hle
    obtain ⟨slot, loopStart, loopEnd, loopActive⟩ := channelTick_sameLoop (inp := inp) hla hle
    have rest := ih (channelTick inp ch) (channelTick_cs_control hc) (slot ▸ hslot) (loopActive ▸ hla)
      (loopEnd ▸ hle)
    rwa [slot, loopStart, loopEnd] at rest

end Sys2Proof.Machine
end

section
/-! The pattern instructions and the dispatch that runs them (42_tick_scheduler.md R159 to R168): the trigger of an
entry, the least of the speeds it has triggered, the marker and the cursor's move as one write each. -/

namespace Sys2Proof.Machine

open Sys2Proof.Claims

/-! ### The trigger -/

/-- What a trigger leaves is R187's list, its header bytes read where R61 puts them. -/
theorem triggeredChannel_eq_triggered (inp : Inputs) (n r0 : Nat) (music : Bool) :
    triggeredChannel inp n r0 music = triggered inp n r0 music := rfl

/-- Settles O31: inside its ranges TRIGGER writes the channel it selects. -/
theorem triggerLoadsItsTarget : Obligations.TriggerLoadsItsTarget := by
  intro n chan r0 s hn h0 h31
  exact if_pos ⟨by omega, h0, h31⟩

/-! ### Music control and RESET -/

/-- Settles O32: inside its ranges MUSIC_START writes the six scalars; MUSIC_STOP has no operand. -/
theorem musicStartAndStopWriteTheScalars : Obligations.MusicStartAndStopWriteTheScalars := by
  intro p mask s hp hmask
  exact ⟨if_pos ⟨by omega, by omega⟩, rfl⟩

/-- Settles O33: RESET's engine is the constant of R285, and the machine starts with it. -/
theorem resetSetsEveryField : Obligations.ResetSetsEveryField := fun _ => ⟨rfl, rfl, rfl⟩

/-! ### The least speed of a dispatch -/

@[simp] theorem leastSpeed_none (v : Nat) : leastSpeed none v = v := rfl

@[simp] theorem leastSpeed_some (m v : Nat) : leastSpeed (some m) v = min m v := (min_def m v).symm

/-- PAT.PLAY is a trigger of its own channel, and the least speed takes in the slot's (R160). -/
theorem exec_patPlay (n : BitVec 6) (s : State) :
    exec (.patPlay n) s = .next
      { withCurChan s (triggered s.inp n.toNat 0 true) with
        work := { s.work with
          minSpeed := some (leastSpeed s.work.minSpeed (max (slotByte s.inp n.toNat 65) 1)) } } := rfl

/-- Settles O23: the least speed is the slot's own where none stands yet, and else the lesser of the two. -/
theorem patPlayTriggersItsChannel : Obligations.PatPlayTriggersItsChannel := by
  intro n s
  dsimp only
  rw [exec_patPlay]
  cases s.work.minSpeed with
  | none => rfl
  | some m => rw [leastSpeed_some]; rfl

/-! ### Markers and moves -/

/-- Settles O25: each marker is one write of the engine. -/
theorem patLoopMarkersSetAndUseTheReturnPoint : Obligations.PatLoopMarkersSetAndUseTheReturnPoint :=
  fun _ => ⟨rfl, rfl⟩

/-- Settles O26: the stop is one write, and the move's two branches are R167's. -/
theorem patStopAndNextMoveOrHalt : Obligations.PatStopAndNextMoveOrHalt := fun _ => ⟨rfl, rfl⟩

/-- The marker of entry 0 writes the return point alone (R164). -/
theorem applyMark_eq (b0 : Byte) (e : Engine) :
    applyMark b0 e =
      { e with musicLoopStart := if entryMeta b0 then e.musicPattern else e.musicLoopStart } := by
  unfold applyMark
  split_ifs <;> rfl

/-- The move of the cursor writes the cursor and `music_playing` alone (R165 to R168). -/
theorem applyAdvance_eq (b1 b2 : Byte) (e : Engine) :
    applyAdvance b1 b2 e =
      { e with
        musicPattern := if entryMeta b1 then e.musicLoopStart else if entryMeta b2 then e.musicPattern
          else if e.musicPattern = 63 then 63 else e.musicPattern + 1
        musicPlaying := if entryMeta b1 then e.musicPlaying else if entryMeta b2 then false
          else if e.musicPattern = 63 then false else e.musicPlaying } := by
  unfold applyAdvance patNext
  split_ifs with h1 h2 h3
  · rfl
  · rfl
  · rw [← h3]
  · rfl

/-! ### The entries of a dispatch -/

theorem entryInstr_toNat (b : Byte) : (entryInstr b).toNat = b.toNat % 64 := by
  rw [entryInstr, toNat_extractLsb'_eq_div_mod]
  omega

theorem playEntry_of_empty {inp : Inputs} {p : Nat} {c : ChanId} (h : entryEmpty (patEntry inp p c) = true)
    (d : Dispatching) : playEntry inp p c d = d := if_pos h

theorem playEntry_of_filled {inp : Inputs} {p : Nat} {c : ChanId} (h : entryEmpty (patEntry inp p c) = false)
    (d : Dispatching) :
    playEntry inp p c d = patPlay inp c (entryInstr (patEntry inp p c)) d :=
  if_neg (Bool.eq_false_iff.mp h)

/-- Settles O29: each part decodes to the one instruction whose meaning it calls. -/
theorem dispatchRunsDecodedEntries : Obligations.DispatchRunsDecodedEntries := by
  intro s p
  refine ⟨?entry, fun h => ?mark, fun h => ?noMark, ?advance⟩
  case entry =>
    cases h : entryEmpty (patEntry s.inp p s.work.chan)
    · refine ⟨_, _, congrArg Except.ok (if_neg (Bool.eq_false_iff.mp h)), rfl, ?_⟩
      exact playEntry_of_filled h _
    · refine ⟨_, _, congrArg Except.ok (if_pos h), rfl, ?_⟩
      exact playEntry_of_empty h _
  case mark => exact ⟨_, _, if_pos h, rfl, if_pos h⟩
  case noMark => exact if_neg (Bool.eq_false_iff.mp h)
  case advance =>
    simp only [decode, applyAdvance]
    split_ifs <;> exact ⟨_, _, rfl, rfl, rfl⟩

/-- An entry writes its own channel, when it is not empty (R160, R161). -/
theorem bankGet_playEntry (inp : Inputs) (p : Nat) (c c' : ChanId) (d : Dispatching) :
    bankGet (playEntry inp p c d).eng.ch c' =
      if c' = c ∧ entryEmpty (patEntry inp p c) = false then
        triggered inp ((patEntry inp p c).toNat % 64) 0 true
      else bankGet d.eng.ch c' := by
  cases h : entryEmpty (patEntry inp p c)
  · rw [playEntry_of_filled h, patPlay, triggeredChannel_eq_triggered, entryInstr_toNat, setChan_ch]
    by_cases hc : c' = c
    · rw [hc, bankGet_bankSet_self, if_pos ⟨rfl, rfl⟩]
    · rw [bankGet_bankSet_of_ne _ _ hc, if_neg fun hand => hc hand.1]
  · rw [playEntry_of_empty h, if_neg fun hand => Bool.noConfusion hand.2]

theorem bankGet_playEntries (inp : Inputs) (e : Engine) (c : ChanId) :
    bankGet (playEntries inp e).eng.ch c =
      if entryEmpty (patEntry inp e.musicPattern c) = false then
        triggered inp ((patEntry inp e.musicPattern c).toNat % 64) 0 true
      else bankGet e.ch c := by
  unfold playEntries
  simp only [bankGet_playEntry]
  rcases chanId_cases c with rfl | rfl | rfl | rfl <;> simp

/-- The speed an entry brings to the dispatch, if it triggers (R162). -/
def entrySpeed (inp : Inputs) (p : Nat) (c : ChanId) : Option Nat :=
  if entryEmpty (patEntry inp p c) then none
  else some (max (slotByte inp ((patEntry inp p c).toNat % 64) 65) 1)

theorem dispatchedSpeeds_eq_filterMap (inp : Inputs) (p : Nat) :
    dispatchedSpeeds inp p = ([0, 1, 2, 3] : List ChanId).filterMap (entrySpeed inp p) := rfl

theorem playEntry_m (inp : Inputs) (p : Nat) (c : ChanId) (d : Dispatching) :
    (playEntry inp p c d).m = (entrySpeed inp p c).elim d.m fun v => some (leastSpeed d.m v) := by
  cases h : entryEmpty (patEntry inp p c)
  · rw [playEntry_of_filled h, entrySpeed, if_neg (Bool.eq_false_iff.mp h), patPlay, triggeredChannel_eq_triggered,
      entryInstr_toNat]
    rfl
  · rw [playEntry_of_empty h, entrySpeed, if_pos h]
    rfl

/-- Taking in the speeds one after another gives the least of them. -/
theorem foldl_leastSpeed (vs : List Nat) :
    vs.foldl (fun m v => some (leastSpeed m v)) none = vs.min? := by
  cases vs with
  | nil => rfl
  | cons v vs =>
    rw [List.min?_cons', List.foldl_cons, leastSpeed_none]
    induction vs generalizing v with
    | nil => rfl
    | cons w vs ih => rw [List.foldl_cons, List.foldl_cons, leastSpeed_some, ih]

theorem playEntries_m (inp : Inputs) (e : Engine) :
    (playEntries inp e).m = (dispatchedSpeeds inp e.musicPattern).min? := by
  calc (playEntries inp e).m
    _ = ([0, 1, 2, 3] : List ChanId).foldl
          (fun m c => (entrySpeed inp e.musicPattern c).elim m fun v => some (leastSpeed m v)) none := by
      simp only [playEntries, playEntry_m, List.foldl_cons, List.foldl_nil]
    _ = (dispatchedSpeeds inp e.musicPattern).foldl (fun m v => some (leastSpeed m v)) none := by
      rw [dispatchedSpeeds_eq_filterMap, List.foldl_filterMap]
      congr 1
      funext m c
      cases entrySpeed inp e.musicPattern c <;> rfl
    _ = (dispatchedSpeeds inp e.musicPattern).min? := foldl_leastSpeed _

/-! ### The dispatch -/

/-- The entries change the channels alone, and the reload the speed and the timer (R159, R162, R163). -/
theorem reloadMusic_playEntries (inp : Inputs) (e : Engine) :
    reloadMusic (playEntries inp e) =
      { e with
        ch := (playEntries inp e).eng.ch
        musicSpeed := (dispatchedSpeeds inp e.musicPattern).min?.getD 1
        musicTickTimer := 32 * (dispatchedSpeeds inp e.musicPattern).min?.getD 1 } := by
  rw [← playEntries_m, reloadMusic, (playEntries_kept (channelControl_inv Config.default) inp e).scalars]

/-- Settles O28: the channels from the entries, the speed from their minimum, then the marker and the move, each
one write. -/
theorem dispatchFollowsThePattern : Obligations.DispatchFollowsThePattern := by
  intro inp e playing expiring p b t
  have ht : t = _ := musicTick_of_expiring playing expiring
  rw [dispatch, reloadMusic_playEntries, applyMark_eq, applyAdvance_eq] at ht
  have speed : t.musicSpeed = (dispatchedSpeeds inp p).min?.getD 1 := by rw [ht]
  refine ⟨fun c => ?channels, fun none => ?noSpeed, fun some => ?leastSpeed, ?timer, ?mark, ?move, ?playing, ?frame⟩
  case channels =>
    rw [ht, bankGet_playEntries]
    show (if entryEmpty (b c) = false then _ else _) = if entryEmpty (b c) then _ else _
    cases entryEmpty (b c) <;> rfl
  case noSpeed =>
    rw [speed, none]
    rfl
  case leastSpeed =>
    obtain ⟨k, hk⟩ := Option.ne_none_iff_exists'.mp (mt List.min?_eq_none_iff.mp some)
    obtain ⟨mem, least⟩ := List.min?_eq_some_iff.mp hk
    rw [speed, hk]
    exact ⟨mem, least⟩
  case timer => rw [speed, ht]
  case mark => rw [ht]; rfl
  case move => rw [ht]; rfl
  case playing =>
    rw [ht]
    show (if entryMeta (b 1) then e.musicPlaying else if entryMeta (b 2) then false
      else if p = 63 then false else e.musicPlaying) = _
    have halt : (if p = 63 then false else true) = decide (p ≠ 63) := by
      by_cases h63 : p = 63 <;> simp [h63]
    rw [playing, halt]
    rfl
  case frame => rw [ht]; exact ⟨rfl, rfl, rfl⟩

end Sys2Proof.Machine
end

section
/-! The carrier's operations in the words of the statements (00_scope.md R8; log 1), and with them the effects of
44_effect_modulator.md: the formulas of R202 to R206, and the ranges R207 gives for the pair they yield. -/

namespace Sys2Proof.Machine

open Sys2Proof.Claims

/-! ### `carried` and what is built of it -/

/-- The reference carrier's rounding is the identity, so one name serves both carriers. -/
theorem carried_eq_rnd (n : Numerics) : carried n = rnd n := by
  funext x
  unfold carried
  split
  case h_1 exact => exact (rnd_exact exact x).symm
  case h_2 => rfl

theorem noteProgress_eq_progress (n : Numerics) {cs : ChannelState} (h : 1 ≤ cs.speed) :
    noteProgress n cs = progress n cs := by
  rw [noteProgress, carried_eq_rnd, progress_eq n h]
  rfl

theorem increment_eq_phaseInc (cfg : Config) (pitch : F) : increment cfg pitch = phaseInc cfg pitch := by
  rw [increment, carried_eq_rnd]
  rfl

theorem phaseTotal_eq_phaseSum (cfg : Config) (pitch : F) (cs : ChannelState) :
    phaseTotal cfg pitch cs.phi = phaseSum cfg pitch cs := by
  rw [phaseTotal, carried_eq_rnd, increment_eq_phaseInc]
  rfl

theorem fractional_eq_frac (n : Numerics) (x : F) : fractional n x = frac n x := by
  rw [fractional, carried_eq_rnd]
  rfl

/-! ### The formulas -/

/-- An effect that writes a ChannelState leaves it in its channel and its pair in `work`. -/
theorem putResolved_eq_withCurChan (s : State) (r : Resolved) :
    s.putResolved r =
      withPair (withCurChan s { bankGet s.eng.ch s.work.chan with cs := r.cs }) r.pitch r.vol := rfl

/-- Settles O8: neither effect writes the channel, and at a speed above 0 the progress is R200's. -/
theorem slideAndDropBendThePitch : Obligations.SlideAndDropBendThePitch := by
  intro s hspeed
  dsimp only
  rw [carried_eq_rnd, noteProgress_eq_progress _ hspeed]
  exact ⟨congrArg Host.Outcome.next (putResolved_eq_withPair s _ _),
    congrArg Host.Outcome.next (putResolved_eq_withPair s _ _)⟩

/-- Settles O9, as O8: the fades scale the volume and keep the pitch. -/
theorem fadesScaleTheVolume : Obligations.FadesScaleTheVolume := by
  intro s hspeed
  dsimp only
  rw [carried_eq_rnd, noteProgress_eq_progress _ hspeed]
  exact ⟨congrArg Host.Outcome.next (putResolved_eq_withPair s _ _),
    congrArg Host.Outcome.next (putResolved_eq_withPair s _ _)⟩

/-- Settles O10: the vibrato's pair is of the stored phase, and its one write is the advanced phase. -/
theorem vibratoUsesThenAdvancesItsPhase : Obligations.VibratoUsesThenAdvancesItsPhase := by
  intro s
  dsimp only
  rw [carried_eq_rnd]
  exact congrArg Host.Outcome.next (putResolved_eq_withCurChan s (effVibrato s.cfg s.curChan.cs))

/-! ### The ranges -/

/-- A carrier keeps a result between two whole numbers there. -/
theorem rnd_mem {n : Numerics} {x : F} {lo hi : Int} (h : (lo : F) ≤ x ∧ x ≤ (hi : F)) :
    (lo : F) ≤ rnd n x ∧ rnd n x ≤ (hi : F) :=
  ⟨le_rnd n h.1, rnd_le n h.2⟩

/-- A carrier keeps a result between two multiples of 1/8 there (log 1). -/
theorem rnd_mem_eighths {n : Numerics} {x : F} {lo hi : Int} (h : (lo : F) / 8 ≤ x ∧ x ≤ (hi : F) / 8) :
    (lo : F) / 8 ≤ rnd n x ∧ rnd n x ≤ (hi : F) / 8 :=
  ⟨le_rnd_eighth n h.1, rnd_eighth_le n h.2⟩

/-- A part in [0, 1] of a value in 0..`hi` stays in 0..`hi`, on every carrier. -/
theorem fmul_part_mem (n : Numerics) {x y : F} {hi : Int} (hx : 0 ≤ x ∧ x ≤ (hi : F)) (hy : 0 ≤ y ∧ y ≤ 1) :
    0 ≤ fmul n x y ∧ fmul n x y ≤ (hi : F) := by
  have mem := rnd_mem (n := n) (x := x * y) (lo := 0) (hi := hi)
    ⟨by rw [Int.cast_zero]; exact mul_nonneg hx.1 hy.1, by nlinarith [hx.1, hx.2, hy.1, hy.2]⟩
  rwa [Int.cast_zero] at mem

/-- What is left of 1 after a part of it. -/
theorem fsub_one_mem (n : Numerics) {y : F} (hy : 0 ≤ y ∧ y ≤ 1) : 0 ≤ fsub n 1 y ∧ fsub n 1 y ≤ 1 := by
  have mem := rnd_mem (n := n) (x := 1 - y) (lo := 0) (hi := 1) (by push_cast; constructor <;> linarith [hy.1, hy.2])
  rwa [Int.cast_zero, Int.cast_one] at mem

theorem WholeUpTo.exists_int {x : F} {hi : Int} (h : WholeUpTo x hi) : ∃ k : Int, x = (k : F) :=
  ⟨x.num, ((Rat.den_eq_one_iff x).mp h.1).symm⟩

/-- The slide from a whole-numbered origin `a` stays in 0..63: the distance, the part of it and the sum each lie
between whole numbers that no rounding passes. -/
theorem slidePitch_mem (n : Numerics) {a b y : F} (ha : WholeUpTo a 63) (hb : WholeUpTo b 63)
    (hy : 0 ≤ y ∧ y ≤ 1) :
    0 ≤ fadd n a (fmul n (fsub n b a) y) ∧ fadd n a (fmul n (fsub n b a) y) ≤ 63 := by
  unfold fadd fmul fsub
  obtain ⟨ha0, ha63⟩ := ha.bounds
  obtain ⟨hb0, hb63⟩ := hb.bounds
  obtain ⟨k, rfl⟩ := ha.exists_int
  push_cast at ha63 hb63
  have distance := rnd_mem (n := n) (x := b - k) (lo := -k) (hi := 63 - k) (by push_cast; constructor <;> linarith)
  push_cast at distance
  have part := rnd_mem (n := n) (x := rnd n (b - k) * y) (lo := -k) (hi := 63 - k)
    (by push_cast; constructor <;> nlinarith [distance.1, distance.2, hy.1, hy.2])
  push_cast at part
  have sum := rnd_mem (n := n) (x := k + rnd n (rnd n (b - k) * y)) (lo := 0) (hi := 63)
    (by push_cast; constructor <;> linarith [part.1, part.2])
  push_cast at sum
  exact sum

/-- The vibrato moves a pitch by at most a quarter, which every carrier holds exactly. -/
theorem vibratoPitch_mem (n : Numerics) {a x : F} (ha : 0 ≤ a ∧ a ≤ 63) :
    -(1 / 4) ≤ fadd n a (fmul n (sin n x) (rnd n (1 / 4))) ∧
      fadd n a (fmul n (sin n x) (rnd n (1 / 4))) ≤ 253 / 4 := by
  have quarter : rnd n (1 / 4) = 1 / 4 := by
    have := rnd_eighth n 2
    norm_num at this
    exact this
  rw [quarter]
  unfold fadd fmul
  have hlo := neg_one_le_sin n x
  have hhi := sin_le_one n x
  have swing := rnd_mem_eighths (n := n) (x := sin n x * (1 / 4)) (lo := -2) (hi := 2)
    (by push_cast; constructor <;> linarith)
  push_cast at swing
  have sum := rnd_mem_eighths (n := n) (x := a + rnd n (sin n x * (1 / 4))) (lo := -2) (hi := 506)
    (by push_cast; constructor <;> linarith [swing.1, swing.2, ha.1, ha.2])
  push_cast at sum
  exact ⟨by linarith [sum.1], by linarith [sum.2]⟩

section
variable {cfg : Config} {ch : Channel} (h : ChannelStateWF cfg.numerics ch.cs)
include h

/-- The progress of a well-formed channel, as a part of 1. -/
theorem progress_part : 0 ≤ progress cfg.numerics ch.cs ∧ progress cfg.numerics ch.cs < 1 := by
  obtain ⟨⟨-, -, -, ⟨hcount, hspeed, -⟩, -⟩, -⟩ := h
  exact progress_mem cfg.numerics hcount hspeed

/-- An effect scales the volume by a part of 1 or keeps it (R201 to R206). -/
theorem resolve_vol_mem : 0 ≤ (resolve cfg ch).vol ∧ (resolve cfg ch).vol ≤ 7 := by
  obtain ⟨hp0, hp1⟩ := progress_part h
  obtain ⟨-, -, -, hvol, -⟩ := h
  have part : 0 ≤ progress cfg.numerics ch.cs ∧ progress cfg.numerics ch.cs ≤ 1 := ⟨hp0, hp1.le⟩
  unfold resolve
  split
  case h_5 => exact fmul_part_mem cfg.numerics hvol.bounds part
  case h_6 => exact fmul_part_mem cfg.numerics hvol.bounds (fsub_one_mem cfg.numerics part)
  all_goals exact hvol.bounds

/-- Every effect but the vibrato yields a pitch between those of two rows (R201, R202, R204). -/
theorem resolve_pitch_mem (hne : ch.effect ≠ .vibrato) :
    0 ≤ (resolve cfg ch).pitch ∧ (resolve cfg ch).pitch ≤ 63 := by
  obtain ⟨hp0, hp1⟩ := progress_part h
  obtain ⟨-, -, -, -, hpitch, horigin, -⟩ := h
  have part : 0 ≤ progress cfg.numerics ch.cs ∧ progress cfg.numerics ch.cs ≤ 1 := ⟨hp0, hp1.le⟩
  unfold resolve
  split
  case h_2 => exact slidePitch_mem cfg.numerics horigin hpitch part
  case h_3 vibrato => exact absurd vibrato hne
  case h_4 => exact fmul_part_mem cfg.numerics horigin.bounds (fsub_one_mem cfg.numerics part)
  all_goals exact hpitch.bounds

/-- The vibrato's swing included (R207). -/
theorem resolve_pitch_mem_swing :
    -(1 / 4) ≤ (resolve cfg ch).pitch ∧ (resolve cfg ch).pitch ≤ 253 / 4 := by
  by_cases hv : ch.effect = .vibrato
  · obtain ⟨-, -, -, -, hpitch, -⟩ := h
    have swing := vibratoPitch_mem cfg.numerics (x := ch.cs.vibPhase) hpitch.bounds
    simp only [resolve, hv]
    exact swing
  · have := resolve_pitch_mem h hv
    constructor <;> linarith

end

/-- Settles O11: the ranges of the volume, of the pitch with and without the swing, and of the progress. -/
theorem effectsStayInRange : Obligations.EffectsStayInRange := by
  intro cfg ch h
  obtain ⟨vol0, vol7⟩ := resolve_vol_mem h
  obtain ⟨low, high⟩ := resolve_pitch_mem_swing h
  exact ⟨vol0, vol7, low, high, resolve_pitch_mem h, progress_part h⟩

end Sys2Proof.Machine
end

section
/-! The oscillator bank (40_oscillator_bank.md): the shapes of R115 to R121 in the carrier's operations, the noise
clock of R122 to R125, and the ranges of R128 for every phase. -/

namespace Sys2Proof.Machine

open Sys2Proof.Claims

/-! ### The shapes -/

theorem absF_eq_abs (x : F) : absF x = |x| := by
  unfold absF
  split_ifs with h
  · exact (abs_of_neg h).symm
  · exact (abs_of_nonneg (not_lt.mp h)).symm

/-- A generator that hands back the channel's own ChannelState leaves its sample alone. -/
theorem putSampled_eq_withOsc (s : State) (osc : F) : s.putSampled ⟨s.curChan.cs, osc⟩ = withOsc s osc :=
  putSampled_self s osc

/-- Settles O12: each generator hands back its ChannelState, and its sample is the formula at the stored phase. -/
theorem phaseWaveformsYieldTheirShape : Obligations.PhaseWaveformsYieldTheirShape := by
  intro s
  dsimp only
  simp only [carried_eq_rnd, fractional_eq_frac, Int.fract, ← absF_eq_abs]
  refine ⟨?_, ?_, ?_, ?_, ?_, ?_, ?_⟩ <;> exact congrArg Host.Outcome.next (putSampled_eq_withOsc s _)

/-! ### The noise generator -/

/-- Bit 0 is the parity of the number the register holds. -/
theorem getLsbD_zero_iff (l : Lfsr) : l.getLsbD 0 = true ↔ l.toNat % 2 = 1 := by
  rw [BitVec.getLsbD, Nat.testBit_zero, decide_eq_true_iff]

theorem latchOf_eq (l : Lfsr) : latchOf l = if l.toNat % 2 = 1 then 1 else -1 :=
  if_congr (getLsbD_zero_iff l) rfl rfl

theorem exec_waveNoise (s : State) :
    exec .waveNoise s = .next (s.putSampled ⟨noiseClock s.cfg s.work.pitch s.curChan.cs, s.curChan.cs.noiseSample⟩) :=
  rfl

/-- Settles O13: the clock's one condition is the phase sum's wrap, and without it the ChannelState is handed back. -/
theorem noiseClocksOnlyOnAWrap : Obligations.NoiseClocksOnlyOnAWrap := by
  intro s
  dsimp only
  rw [phaseTotal_eq_phaseSum, exec_waveNoise, ← latchOf_eq]
  refine ⟨fun still => ?_, fun wrapped => ?_⟩
  · have kept : noiseClock s.cfg s.work.pitch s.curChan.cs = s.curChan.cs := if_neg still
    rw [kept]
    exact congrArg Host.Outcome.next (putSampled_eq_withOsc s _)
  · have clocked : noiseClock s.cfg s.work.pitch s.curChan.cs = _ := if_pos wrapped
    rw [clocked]
    rfl

/-! ### The ranges -/

section
variable (n : Numerics) {t : F} (h0 : 0 ≤ t) (h1 : t < 1)
include h0 h1

/-- Four times a phase lies in 0..4 and its distance from 2 in 0..2, so the triangle lies in −1..1. -/
theorem triValue_mem : -1 ≤ triValue n t ∧ triValue n t ≤ 1 := by
  unfold triValue fsub fmul
  rw [absF_eq_abs]
  have four := rnd_mem (n := n) (x := 4 * t) (lo := 0) (hi := 4) (by push_cast; constructor <;> linarith)
  push_cast at four
  have centred := rnd_mem (n := n) (x := rnd n (4 * t) - 2) (lo := -2) (hi := 2)
    (by push_cast; constructor <;> linarith [four.1, four.2])
  push_cast at centred
  have dist : |rnd n (rnd n (4 * t) - 2)| ≤ 2 := abs_le.mpr centred
  have dist0 := abs_nonneg (rnd n (rnd n (4 * t) - 2))
  have value := rnd_mem (n := n) (x := 1 - |rnd n (rnd n (4 * t) - 2)|) (lo := -1) (hi := 1)
    (by push_cast; constructor <;> linarith)
  push_cast at value
  exact value

/-- Each slope of the tilt is a quotient in 0..2 moved by 1: its peak 7/8 is a value of every carrier. -/
theorem tiltValue_mem : -1 ≤ tiltValue n t ∧ tiltValue n t ≤ 1 := by
  have peak : rnd n (7 / 8) = 7 / 8 := by simpa using rnd_eighth n 7
  have rest : rnd n (1 - 7 / 8) = 1 / 8 := by
    have := rnd_eighth n 1
    norm_num at this ⊢
    exact this
  unfold tiltValue fsub fmul fdiv
  rw [peak]
  dsimp only
  rw [rest]
  split_ifs with rising
  · have twice := rnd_mem_eighths (n := n) (x := 2 * t) (lo := 0) (hi := 14)
      (by push_cast; constructor <;> linarith)
    push_cast at twice
    have ratio := rnd_mem (n := n) (x := rnd n (2 * t) / (7 / 8)) (lo := 0) (hi := 2)
      (by push_cast; constructor <;> linarith [twice.1, twice.2])
    push_cast at ratio
    have value := rnd_mem (n := n) (x := rnd n (rnd n (2 * t) / (7 / 8)) - 1) (lo := -1) (hi := 1)
      (by push_cast; constructor <;> linarith [ratio.1, ratio.2])
    push_cast at value
    exact value
  · have past := rnd_mem_eighths (n := n) (x := t - 7 / 8) (lo := 0) (hi := 1)
      (by push_cast; constructor <;> linarith)
    push_cast at past
    have twice := rnd_mem_eighths (n := n) (x := 2 * rnd n (t - 7 / 8)) (lo := 0) (hi := 2)
      (by push_cast; constructor <;> linarith [past.1, past.2])
    push_cast at twice
    have ratio := rnd_mem (n := n) (x := rnd n (2 * rnd n (t - 7 / 8)) / (1 / 8)) (lo := 0) (hi := 2)
      (by push_cast; constructor <;> linarith [twice.1, twice.2])
    push_cast at ratio
    have value := rnd_mem (n := n) (x := 1 - rnd n (rnd n (2 * rnd n (t - 7 / 8)) / (1 / 8))) (lo := -1) (hi := 1)
      (by push_cast; constructor <;> linarith [ratio.1, ratio.2])
    push_cast at value
    exact value

theorem sawValue_mem : -1 ≤ sawValue n t ∧ sawValue n t < 1 := by
  have twice := rnd_mem (n := n) (x := 2 * t) (lo := 0) (hi := 2) (by push_cast; constructor <;> linarith)
  push_cast at twice
  have value := le_rnd n (x := rnd n (2 * t) - 1) (k := -1) (by push_cast; linarith [twice.1])
  push_cast at value
  refine ⟨?_, below_lt (by linarith)⟩
  unfold sawValue below fsub fmul
  split_ifs
  · exact value
  · linarith

/-- Over a cycle the exact organ's two triangles never leave −3/2..1/2 together (R120). -/
theorem organ_exact_mem :
    -(3 / 2) ≤ 1 - |4 * t - 2| + 1 / 2 * (1 - |4 * Int.fract (2 * t) - 2|) ∧
      1 - |4 * t - 2| + 1 / 2 * (1 - |4 * Int.fract (2 * t) - 2|) ≤ 1 / 2 := by
  have low := neg_abs_le (4 * Int.fract (2 * t) - 2)
  have high := le_abs_self (4 * Int.fract (2 * t) - 2)
  have bound : |4 * Int.fract (2 * t) - 2| ≤ 2 := by
    have := Int.fract_nonneg (2 * t)
    have := Int.fract_lt_one (2 * t)
    exact abs_le.mpr ⟨by linarith, by linarith⟩
  rcases lt_or_ge t (1 / 2) with first | second
  · have part : Int.fract (2 * t) = 2 * t := Int.fract_eq_self.mpr ⟨by linarith, by linarith⟩
    rw [abs_of_nonpos (by linarith : 4 * t - 2 ≤ 0)]
    constructor <;> linarith
  · have part : Int.fract (2 * t) = 2 * t - 1 := by
      rw [← Int.fract_sub_one]
      exact Int.fract_eq_self.mpr ⟨by linarith, by linarith⟩
    rw [abs_of_nonneg (by linarith : 0 ≤ 4 * t - 2)]
    constructor <;> linarith

theorem organValue_mem : -(3 / 2) ≤ organValue n t ∧ organValue n t ≤ 1 / 2 := by
  have exact_mem := organ_exact_mem h0 h1
  simp only [Int.fract, ← absF_eq_abs] at exact_mem
  unfold organValue
  dsimp only
  split_ifs with held
  · exact held
  · exact exact_mem

end

/-- Settles O14: one range a shape, the square and the pulse by their two values. -/
theorem rawSamplesStayInRange : Obligations.RawSamplesStayInRange := by
  intro n t h0 h1
  exact ⟨triValue_mem n h0 h1, tiltValue_mem n h0 h1, sawValue_mem n h0 h1, ite_eq_or_eq _ _ _, ite_eq_or_eq _ _ _,
    organValue_mem n h0 h1⟩

end Sys2Proof.Machine
end

section
/-! The output stage (45_sample_mixer_output.md R221 to R225): truncation, quotient and clamp of 00_scope.md R13 in
the library's terms, OUTPUT by its formula, and its symmetry about 0 (R230). -/

namespace Sys2Proof.Machine

open Sys2Proof.Claims

/-! ### trunc, quot, clamp -/

theorem trunc_of_nonneg {x : F} (h : 0 ≤ x) : trunc x = ⌊x⌋ := by
  rw [trunc, Int.tdiv_eq_ediv_of_nonneg (Rat.num_nonneg.mpr h), Rat.floor_def']

/-- Truncation is the floor of what is not negative and the ceiling of what is (R13). -/
theorem trunc_eq_ite (x : F) : trunc x = if 0 ≤ x then ⌊x⌋ else ⌈x⌉ := by
  split_ifs with h
  · exact trunc_of_nonneg h
  · have mirrored := trunc_of_nonneg (x := -x) (by linarith)
    rw [trunc_neg, Int.floor_neg] at mirrored
    omega

/-- `a quot b = trunc(a / b)` (R13). -/
theorem quot_eq_trunc_div (a : Int) (b : Nat) : quot a b = trunc ((a : F) / (b : F)) := by
  have nonneg : ∀ k : Int, 0 ≤ k → quot k b = trunc ((k : F) / (b : F)) := by
    intro k hk
    have hk' : (0 : F) ≤ (k : F) := by exact_mod_cast hk
    rw [quot, Int.tdiv_eq_ediv_of_nonneg hk, trunc_of_nonneg (div_nonneg hk' (Nat.cast_nonneg b)),
      Rat.floor_intCast_div_natCast]
  rcases le_total 0 a with h | h
  · exact nonneg a h
  · have mirrored := nonneg (-a) (by omega)
    rw [quot, Int.neg_tdiv, Int.cast_neg, neg_div, trunc_neg] at mirrored
    exact neg_injective mirrored

/-- `clamp(x, lo, hi) = max(lo, min(hi, x))` (R13). -/
theorem clamp_eq_max_min (x lo hi : F) : clamp x lo hi = max lo (min hi x) := by
  rw [max_comm, max_def, min_def]
  rfl

/-! ### OUTPUT -/

/-- Settles O38: the distortion's quotient is a truncated division, and the rest is the formula itself. -/
theorem outputDistortsHalvesClampsAndTruncates : Obligations.OutputDistortsHalvesClampsAndTruncates := by
  intro cfg distort mix hscale
  dsimp only
  have fourK : ((4096 : Nat) : F) = 4096 := by norm_num
  rw [carried_eq_rnd]
  simp only [← trunc_eq_ite, ← clamp_eq_max_min]
  rw [← fourK, ← quot_eq_trunc_div]
  rfl

theorem fmul_neg_left (n : Numerics) (x y : F) : fmul n (-x) y = -fmul n x y := by
  rw [fmul, neg_mul, rnd_neg, fmul]

theorem fdiv_neg_left (n : Numerics) (x y : F) : fdiv n (-x) y = -fdiv n x y := by
  rw [fdiv, neg_div, rnd_neg, fdiv]

theorem distorted_neg (cfg : Config) (mix : F) : distorted cfg (-mix) = -distorted cfg mix := by
  simp only [distorted, fmul_neg_left, trunc_neg, quot, Int.neg_tdiv, Int.neg_mul, Int.cast_neg, fdiv_neg_left]

/-- Settles O39: every stage of OUTPUT is odd, so their composition is. -/
theorem outputIsOdd : Obligations.OutputIsOdd := by
  intro cfg distort mix
  have stage : (if distort then distorted cfg (-mix) else -mix) = -(if distort then distorted cfg mix else mix) := by
    cases distort
    · rfl
    · exact distorted_neg cfg mix
  simp only [output, stage, fmul_neg_left, clamp_neg zero_le_one, trunc_neg]

/-- No mix, no sample: 0 is its own negative, and so is its output. -/
theorem output_zero (cfg : Config) (distort : Bool) : output cfg distort 0 = 0 := by
  have odd := outputIsOdd cfg distort 0
  rw [neg_zero] at odd
  omega

end Sys2Proof.Machine
end

section
/-! RENDER and SAMPLE (45_sample_mixer_output.md R216 to R229): a channel rendered by the instructions its bytes
decode to, one that is silent or Idle, the whole sample, and the cursors it asks for (log 16). -/

namespace Sys2Proof.Machine

open Sys2Proof.Claims

/-! ### The effect and the waveform as instructions -/

theorem exec_effectInstr (s : State) :
    exec (effectInstr s.curChan.effect) s = .next (s.putResolved (resolve s.cfg s.curChan)) := by
  unfold resolve
  cases s.curChan.effect <;> rfl

theorem exec_waveInstr (w : Waveform) (s : State) :
    exec (waveInstr w) s = .next (s.putSampled (waveSample s.cfg w s.work.pitch s.curChan.cs)) := by
  cases w <;> rfl

theorem putResolved_curChan (s : State) (r : Resolved) :
    (s.putResolved r).curChan = { s.curChan with cs := r.cs } := chan_setChan_self _ _ _

/-- A generator after an effect works on the pitch and the ChannelState that the effect left (log 14). -/
theorem exec_waveInstr_putResolved (w : Waveform) (s : State) (r : Resolved) :
    exec (waveInstr w) (s.putResolved r) =
      .next ((s.putResolved r).putSampled (waveSample s.cfg w r.pitch r.cs)) := by
  rw [exec_waveInstr, putResolved_curChan]
  rfl

/-- Of the channel an effect and then a generator worked on, the ChannelState is the generator's. -/
theorem bankGet_putResolved_putSampled (s : State) (r : Resolved) (o : Sampled) :
    bankGet ((s.putResolved r).putSampled o).eng.ch s.work.chan =
      { bankGet s.eng.ch s.work.chan with cs := o.cs } := by
  have after : ((s.putResolved r).putSampled o).curChan = { (s.putResolved r).curChan with cs := o.cs } :=
    chan_setChan_self _ _ _
  rw [putResolved_curChan] at after
  exact after

theorem resolve_phi (cfg : Config) (ch : Channel) : (resolve cfg ch).cs.phi = ch.cs.phi := by
  obtain ⟨v, hv, -⟩ := resolve_cs cfg ch
  rw [hv]

/-- No generator moves the phase: the phase step does (log 14). -/
theorem waveSample_phi (cfg : Config) (w : Waveform) (pitch : F) (cs : ChannelState) :
    (waveSample cfg w pitch cs).cs.phi = cs.phi := by
  cases w
  case noise =>
    simp only [waveSample, waveNoise, noiseClock]
    split_ifs <;> rfl
  all_goals rfl

theorem phaseAdvance_eq (cfg : Config) (pitch : F) (cs : ChannelState) :
    phaseAdvance cfg pitch cs =
      { cs with
        phi := if phaseTotal cfg pitch cs.phi ≥ 1 then fractional cfg.numerics (phaseTotal cfg pitch cs.phi)
          else phaseTotal cfg pitch cs.phi } := by
  rw [phaseTotal_eq_phaseSum, fractional_eq_frac]
  rfl

theorem boundVol_eq_max_min (v : Int) : boundVol v = max 0 (min 10 v) := by
  unfold boundVol
  split_ifs <;> omega

/-- The scaling by volume and bus (R218, R219). -/
theorem contribution_eq (n : Numerics) (inp : Inputs) (music : Bool) (osc vol : F) :
    contribution n inp music osc vol = fmul n (fmul n osc (fdiv n vol 7)) (busGain n inp music) := by
  simp only [contribution, carried_eq_rnd, ← boundVol_eq_max_min]
  rfl

/-- Settles O37: the two instructions leave in the channel and in `work` what RENDER composes, and neither moves the
phase that the step then advances. -/
theorem renderIsEffectThenWaveform : Obligations.RenderIsEffectThenWaveform := by
  intro s c ch
  refine ⟨fun still => renderChannel_of_not fun ⟨hactive, hrow⟩ => still.elim hactive hrow, fun hactive hrow => ?_⟩
  have renders : renderChannel s.cfg s.inp ch = _ := if_pos ⟨hactive, hrow⟩
  dsimp only [oscStep] at renders
  rw [phaseAdvance_eq, waveSample_phi, resolve_phi, ← contribution_eq] at renders
  refine ⟨_, _, _, exec_effectInstr s, rfl, exec_waveInstr_putResolved _ _ _, ?_⟩
  rw [renders, bankGet_putResolved_putSampled]
  exact ⟨rfl, rfl⟩

/-! ### Silent and Idle channels -/

theorem fmul_zero_left (n : Numerics) (x : F) : fmul n 0 x = 0 := by rw [fmul, zero_mul, rnd_zero]

theorem fmul_zero_right (n : Numerics) (x : F) : fmul n x 0 = 0 := by rw [fmul, mul_zero, rnd_zero]

theorem fdiv_zero_left (n : Numerics) (x : F) : fdiv n 0 x = 0 := by rw [fdiv, zero_div, rnd_zero]

theorem fadd_zero_zero (n : Numerics) : fadd n 0 0 = 0 := by rw [fadd, zero_add, rnd_zero]

/-- No effect makes a silent row sound: each keeps the volume or scales it (R201 to R206). -/
theorem resolve_vol_of_silent {cfg : Config} {ch : Channel} (h : ch.cs.currentVol = 0) :
    (resolve cfg ch).vol = 0 := by
  unfold resolve
  split
  case h_5 => simp only [effFadeIn, h, fmul_zero_left]
  case h_6 => simp only [effFadeOut, h, fmul_zero_left]
  all_goals exact h

/-- A channel that is Idle or silent adds nothing to the mix (R216, R218). -/
theorem renderChannel_out_of_silent {cfg : Config} {inp : Inputs} {ch : Channel}
    (h : ch.cs.sfxId = -1 ∨ ch.cs.currentVol = 0) : (renderChannel cfg inp ch).out = 0 := by
  by_cases hr : Renders ch.cs
  · have silent := resolve_vol_of_silent (cfg := cfg) (h.resolve_left hr.1)
    simp only [renderChannel, if_pos hr, silent, fdiv_zero_left, fmul_zero_right, fmul_zero_left]
  · rw [renderChannel_of_not hr]

/-- Settles O42: four contributions of 0 sum to 0 on every carrier, and the output of 0 is 0. -/
theorem silentChannelsGiveZeroPcm : Obligations.SilentChannelsGiveZeroPcm := by
  intro cfg inp e h
  have h0 := renderChannel_out_of_silent (cfg := cfg) (inp := inp) (h 0)
  have h1 := renderChannel_out_of_silent (cfg := cfg) (inp := inp) (h 1)
  have h2 := renderChannel_out_of_silent (cfg := cfg) (inp := inp) (h 2)
  have h3 := renderChannel_out_of_silent (cfg := cfg) (inp := inp) (h 3)
  simp only [bankGet_zero, bankGet_one, bankGet_two, bankGet_three] at h0 h1 h2 h3
  simp only [renderPart, h0, h1, h2, h3, fadd_zero_zero, output_zero]

/-! ### The cursors -/

theorem cursorsOk_iff (e : Engine) :
    CursorsOk e ↔ (∀ c : ChanId, CursorOk (bankGet e.ch c).cs) ∧ e.musicPattern ≤ 63 :=
  and_congr_left' (forall_chan_iff (p := fun ch => CursorOk ch.cs) e.ch).symm

theorem not_cursorOk_iff (cs : ChannelState) :
    ¬ CursorOk cs ↔ cs.sfxId ≠ -1 ∧
      (cs.sfxId < 0 ∨ 63 < cs.sfxId ∨ 31 < cs.row ∨ cs.lastNoteIdx < -1 ∨ 31 < cs.lastNoteIdx) := by
  unfold CursorOk Idle
  omega

/-- The cursors SAMPLE asks for are those that have not strayed (20_memory.md R68). -/
theorem strayed_iff (e : Engine) : Strayed e ↔ ¬ CursorsOk e := by
  rw [cursorsOk_iff, not_and_or, not_forall, not_le, or_comm, Strayed]
  simp only [not_cursorOk_iff]

theorem sampleEngine_of_cursorsOk {inp : Inputs} (unmuted : ¬ Muted inp) {e : Engine} (ok : CursorsOk e)
    (cfg : Config) : sampleEngine cfg inp e = .next (renderPart cfg inp (tickPart cfg inp e)) := by
  rw [sampleEngine, if_neg unmuted, if_pos ok]

theorem sampleEngine_of_not_cursorsOk {inp : Inputs} (unmuted : ¬ Muted inp) {e : Engine} (stray : ¬ CursorsOk e)
    (cfg : Config) : sampleEngine cfg inp e = .refused .cursorOutsideMemory := by
  rw [sampleEngine, if_neg unmuted, if_neg stray]

/-- Settles O43: the two clauses are the last two of the three things a sample can be. -/
theorem cursorOutsideMemoryIsRefused : Obligations.CursorOutsideMemoryIsRefused := by
  intro s unmuted
  rw [strayed_iff, not_not, exec_sample]
  exact ⟨fun stray => execSample_of_refused (sampleEngine_of_not_cursorsOk unmuted stray s.cfg),
    fun ok => ⟨_, execSample_of_produced (sampleEngine_of_cursorsOk unmuted ok s.cfg)⟩⟩

/-! ### The whole sample -/

/-- Settles O36: the render of the ticked engine, each part by its definition. -/
theorem sampleIsTickThenRenderThenOutput : Obligations.SampleIsTickThenRenderThenOutput := by
  intro s unmuted straight
  rw [strayed_iff, not_not] at straight
  dsimp only
  rw [carried_eq_rnd, exec_sample, execSample_of_produced (sampleEngine_of_cursorsOk unmuted straight s.cfg)]
  rfl

end Sys2Proof.Machine
end

section
/-! What an Idle channel keeps over a sample (41_channel_state_machine.md R140), and the reset engine under GENERATE
(70_reset_and_hazards.md R287). -/

namespace Sys2Proof.Machine

open Sys2Proof.Claims

/-! ### Idle channels -/

theorem channelTick_of_idle {inp : Inputs} {ch : Channel} (h : Idle ch.cs) : channelTick inp ch = ch := if_pos h

theorem renderChannel_of_idle {cfg : Config} {inp : Inputs} {ch : Channel} (h : Idle ch.cs) :
    renderChannel cfg inp ch = ⟨ch, 0⟩ := renderChannel_of_not fun renders => renders.1 h

/-- Outside a dispatch the music scheduler leaves every channel alone (42_tick_scheduler.md R157, R158). -/
theorem musicTick_ch {inp : Inputs} {e : Engine} (h : e.musicPlaying = false ∨ 2 ≤ e.musicTickTimer) :
    (musicTick inp e).ch = e.ch := by
  cases playing : e.musicPlaying
  · rw [musicTick_of_stopped playing]
  · rw [musicTick_of_counting playing (h.resolve_left (by rw [playing]; exact Bool.noConfusion))]

/-- The channels' ticks, read one channel at a time. -/
theorem bankGet_channelTicks (inp : Inputs) (e : Engine) (c : ChanId) :
    bankGet (channelTicks inp e).ch c = channelTick inp (bankGet e.ch c) := by
  rcases chanId_cases c with rfl | rfl | rfl | rfl <;> rfl

/-- The renders, read one channel at a time. -/
theorem bankGet_renderPart (cfg : Config) (inp : Inputs) (e : Engine) (c : ChanId) :
    bankGet (renderPart cfg inp e).eng.ch c = (renderChannel cfg inp (bankGet e.ch c)).ch := by
  rcases chanId_cases c with rfl | rfl | rfl | rfl <;> rfl

/-- The ticks before a sample skip an Idle channel, unless one of them dispatches. -/
theorem bankGet_tickPart_of_idle {cfg : Config} {inp : Inputs} {e : Engine} {c : ChanId}
    (idle : Idle (bankGet e.ch c).cs)
    (h : e.tickAcc ≠ 0 ∨ e.musicPlaying = false ∨ 2 ≤ e.musicTickTimer) :
    bankGet (tickPart cfg inp e).ch c = bankGet e.ch c := by
  by_cases due : e.tickAcc = 0
  · have ticked : (tickPart cfg inp e).ch = (tick inp e).ch := by rw [tickPart, if_pos due]
    rw [ticked, tick, bankGet_channelTicks, musicTick_ch (h.resolve_left (not_not.mpr due)),
      channelTick_of_idle idle]
  · rw [tickPart, if_neg due]

/-- Settles O41: neither the ticks nor the render touch the channel. -/
theorem idleChannelKeepsEveryField : Obligations.IdleChannelKeepsEveryField := by
  intro s t c h idle quiet
  obtain ⟨p, hp, rfl⟩ := execSample_next h
  show bankGet p.eng.ch c = bankGet s.eng.ch c
  obtain ⟨-, hq⟩ | ⟨-, -, hq⟩ | ⟨-, -, hq⟩ := sampleEngine_cases s.cfg s.inp s.eng <;> cases hp.symm.trans hq
  · rfl
  · have kept := bankGet_tickPart_of_idle (cfg := s.cfg) (inp := s.inp) idle quiet
    rw [bankGet_renderPart, kept, renderChannel_of_idle idle]

/-! ### The reset engine under GENERATE -/

/-- The reset engine with its tick accumulator moved. -/
def resetAt (acc : Nat) : Engine := { Engine.reset with tickAcc := acc }

theorem tickPart_resetAt (cfg : Config) (inp : Inputs) (acc : Nat) :
    tickPart cfg inp (resetAt acc) = resetAt ((acc + 1) % cfg.samplesPerTick) := by
  have ticked : tick inp (resetAt acc) = resetAt acc := rfl
  rw [tickPart, ticked, ite_self]
  rfl

/-- Four Idle channels render to themselves and to silence. -/
theorem renderPart_resetAt (cfg : Config) (inp : Inputs) (acc : Nat) :
    renderPart cfg inp (resetAt acc) = ⟨resetAt acc, 0⟩ := by
  have idle : ∀ c : ChanId, Idle (bankGet (resetAt acc).ch c).cs := by
    intro c
    rcases chanId_cases c with rfl | rfl | rfl | rfl <;> rfl
  have silent : (renderPart cfg inp (resetAt acc)).pcm = 0 :=
    silentChannelsGiveZeroPcm cfg inp (resetAt acc) fun c => .inl (idle c)
  rw [← silent]
  rfl

theorem sampleEngine_resetAt {inp : Inputs} (unmuted : ¬ Muted inp) (cfg : Config) (acc : Nat) :
    sampleEngine cfg inp (resetAt acc) = .next ⟨resetAt ((acc + 1) % cfg.samplesPerTick), 0⟩ := by
  have idle : CursorOk channelReset.cs := .inl rfl
  have cursors : CursorsOk (resetAt acc) := ⟨⟨idle, idle, idle, idle⟩, Nat.zero_le 63⟩
  rw [sampleEngine_of_cursorsOk unmuted cursors, tickPart_resetAt, renderPart_resetAt]

theorem generateEngine_resetAt {inp : Inputs} (unmuted : ¬ Muted inp) (cfg : Config) (k acc : Nat)
    (hacc : acc < cfg.samplesPerTick) :
    generateEngine cfg inp k (resetAt acc) =
      .next ⟨resetAt ((acc + k) % cfg.samplesPerTick), List.replicate k 0⟩ := by
  induction k generalizing acc with
  | zero => rw [generateEngine_zero, Nat.add_zero, Nat.mod_eq_of_lt hacc, List.replicate_zero]
  | succ k ih =>
    have rest := ih ((acc + 1) % cfg.samplesPerTick) (Nat.mod_lt _ (by omega))
    rw [generateEngine_succ_of_next (sampleEngine_resetAt unmuted cfg acc) rest, Nat.mod_add_mod,
      Nat.add_right_comm, List.replicate_succ]
    rfl

/-- Settles O34: the block that starts at the reset accumulator, 0. -/
theorem generateOnResetIsSilent : Obligations.GenerateOnResetIsSilent := by
  intro s k hc hreset unmuted
  have block := generateEngine_resetAt unmuted s.cfg k 0 (samplesPerTick_pos hc)
  have start : s.eng = resetAt 0 := hreset
  rw [← start, Nat.zero_add] at block
  rw [exec_generate, execGenerate_of_block block]
  rfl

end Sys2Proof.Machine
end

section
/-! The noise register (40_oscillator_bank.md R123). Bit by bit a step reads a linear recurrence, so sixteen steps are
the sum of two and of one; squaring that relation again and again leads from 2^15 steps back to one. The period divides
32767 = 7·31·151, and at each of the three cofactors the trigger seed has not come back. -/

namespace Sys2Proof.Machine

/-! ### One step -/

/-- The tap as a number (R123). -/
theorem tap_toNat (l : Lfsr) :
    ((l &&& 1#15) ^^^ ((l >>> 1) &&& 1#15)).toNat = (l.toNat % 2 + l.toNat / 2 % 2) % 2 := by
  have bit0 : (l &&& 1#15).toNat = l.toNat % 2 := Nat.and_one_is_mod l.toNat
  have bit1 : ((l >>> 1) &&& 1#15).toNat = l.toNat / 2 % 2 := by
    rw [BitVec.toNat_and, BitVec.toNat_ushiftRight, Nat.shiftRight_one]
    exact Nat.and_one_is_mod _
  rw [BitVec.toNat_xor, bit0, bit1]
  rcases Nat.mod_two_eq_zero_or_one l.toNat with h0 | h0 <;>
    rcases Nat.mod_two_eq_zero_or_one (l.toNat / 2) with h1 | h1 <;> rw [h0, h1] <;> rfl

/-- Settles O15: the tap's bit lies above the shifted register, so joining them is adding. -/
theorem lfsrStepShiftsTheTapIn : Obligations.LfsrStepShiftsTheTapIn := by
  intro l
  have htap := tap_toNat l
  unfold lfsrStep
  generalize (l &&& 1#15) ^^^ ((l >>> 1) &&& 1#15) = tap at htap
  have low : l.toNat / 2 < 2 ^ 14 := by have := l.isLt; omega
  have high : (tap <<< 14).toNat = tap.toNat <<< 14 := by
    rw [BitVec.toNat_shiftLeft, Nat.shiftLeft_eq]
    omega
  rw [BitVec.toNat_or, BitVec.toNat_ushiftRight, Nat.shiftRight_one, high, Nat.lor_comm,
    ← Nat.shiftLeft_add_eq_or_of_lt low, Nat.shiftLeft_eq, htap]
  omega

/-- A step moves every bit down by one and puts the sum of bits 0 and 1 on top. -/
theorem getLsbD_lfsrStep (l : Lfsr) {i : Nat} (hi : i < 15) :
    (lfsrStep l).getLsbD i = if i = 14 then l.getLsbD 0 ^^ l.getLsbD 1 else l.getLsbD (i + 1) := by
  have one_bit (j : Nat) : (1#15).getLsbD j = decide (j = 0) := by
    rw [BitVec.getLsbD_one]
    simp
  split_ifs with top
  · subst top
    simp [lfsrStep]
  · have below14 : i < 14 := by omega
    simp [lfsrStep, one_bit, below14, Nat.add_comm]

/-- The step is linear over exclusive or. -/
theorem lfsrStep_xor (a b : Lfsr) : lfsrStep (a ^^^ b) = lfsrStep a ^^^ lfsrStep b := by
  refine BitVec.eq_of_getLsbD_eq fun i hi => ?_
  simp only [BitVec.getLsbD_xor, getLsbD_lfsrStep _ hi]
  split_ifs
  · rw [Bool.xor_assoc, Bool.xor_assoc, Bool.xor_left_comm (b.getLsbD 0)]
  · rfl

theorem lfsrStep_zero : lfsrStep 0#15 = 0#15 := by decide

/-! ### Many steps -/

theorem iterate_lfsrStep_xor (k : Nat) (a b : Lfsr) :
    lfsrStep^[k] (a ^^^ b) = lfsrStep^[k] a ^^^ lfsrStep^[k] b := by
  induction k generalizing a b with
  | zero => rfl
  | succ k ih => rw [Function.iterate_succ_apply, lfsrStep_xor, ih]; rfl

/-- Every bit of the register is bit 0 of a later one. -/
theorem getLsbD_iterate_lfsrStep (l : Lfsr) (k : Nat) {i : Nat} (hi : i < 15) :
    (lfsrStep^[k] l).getLsbD i = (lfsrStep^[k + i] l).getLsbD 0 := by
  induction i generalizing k with
  | zero => rfl
  | succ i ih =>
    have moved := getLsbD_lfsrStep (lfsrStep^[k] l) (i := i) (by omega)
    rw [if_neg (by omega), ← Function.iterate_succ_apply' lfsrStep] at moved
    rw [← moved, ih (k + 1) (by omega), Nat.add_right_comm]
    rfl

/-- The recurrence of the tap, on the bits that leave the register. -/
theorem bit_zero_recurrence (l : Lfsr) (i : Nat) :
    (lfsrStep^[i + 15] l).getLsbD 0 = ((lfsrStep^[i + 1] l).getLsbD 0 ^^ (lfsrStep^[i] l).getLsbD 0) := by
  have tapped := getLsbD_lfsrStep (lfsrStep^[i] l) (i := 14) (by decide)
  rw [if_pos rfl, ← Function.iterate_succ_apply' lfsrStep, getLsbD_iterate_lfsrStep l i (by decide),
    getLsbD_iterate_lfsrStep l (i + 1) (by decide), getLsbD_iterate_lfsrStep l i (by decide)] at tapped
  rw [Bool.xor_comm]
  exact tapped

/-- Fifteen steps are the sum of one and of none. -/
theorem iterate_lfsrStep_fifteen (l : Lfsr) : lfsrStep^[15] l = lfsrStep^[1] l ^^^ l := by
  refine BitVec.eq_of_getLsbD_eq fun i hi => ?_
  have here := getLsbD_iterate_lfsrStep l 0 hi
  rw [Function.iterate_zero_apply, Nat.zero_add] at here
  rw [BitVec.getLsbD_xor, getLsbD_iterate_lfsrStep l 15 hi, getLsbD_iterate_lfsrStep l 1 hi, here, Nat.add_comm 15,
    Nat.add_comm 1, bit_zero_recurrence]

/-- Before a step the register is the sum of what the step leaves and of fourteen more, so no two registers step to
one. -/
theorem lfsrStep_injective : Function.Injective lfsrStep := by
  have before (l : Lfsr) : l = lfsrStep^[14] (lfsrStep l) ^^^ lfsrStep l := by
    rw [← Function.iterate_succ_apply, iterate_lfsrStep_fifteen, BitVec.xor_comm, ← BitVec.xor_assoc,
      Function.iterate_one, BitVec.xor_self, BitVec.zero_xor]
  intro a b hab
  rw [before a, hab, ← before b]

/-! ### Powers of two -/

theorem xor_xor_cancel (a b c : Lfsr) : (a ^^^ b) ^^^ (b ^^^ c) = a ^^^ c := by
  rw [BitVec.xor_assoc, ← BitVec.xor_assoc b, BitVec.xor_self, BitVec.zero_xor]

/-- Squaring: a sum of two iterates, taken twice, is the sum of the doubled iterates, for the mixed terms cancel. -/
theorem iterate_double {a b c : Nat} (h : ∀ l, lfsrStep^[a] l = lfsrStep^[b] l ^^^ lfsrStep^[c] l) (l : Lfsr) :
    lfsrStep^[2 * a] l = lfsrStep^[2 * b] l ^^^ lfsrStep^[2 * c] l := by
  rw [Nat.two_mul, Nat.two_mul, Nat.two_mul, Function.iterate_add_apply, h l, iterate_lfsrStep_xor, h, h,
    ← Function.iterate_add_apply, ← Function.iterate_add_apply, ← Function.iterate_add_apply,
    ← Function.iterate_add_apply, Nat.add_comm c b, xor_xor_cancel]

/-- `2^(j+4)` steps are the sum of `2^(j+1)` and of `2^j`. -/
theorem iterate_two_pow_add_four (j : Nat) (l : Lfsr) :
    lfsrStep^[2 ^ (j + 4)] l = lfsrStep^[2 ^ (j + 1)] l ^^^ lfsrStep^[2 ^ j] l := by
  induction j generalizing l with
  | zero =>
    show lfsrStep^[15] (lfsrStep l) = _
    rw [iterate_lfsrStep_fifteen]
    rfl
  | succ j ih =>
    have doubled := iterate_double ih l
    rwa [← Nat.pow_succ', ← Nat.pow_succ', ← Nat.pow_succ'] at doubled

/-- The relation composed with itself: `2^(j+8)` steps are the sum of `2^(j+2)` and of `2^j`. -/
theorem iterate_two_pow_add_eight (j : Nat) (l : Lfsr) :
    lfsrStep^[2 ^ (j + 8)] l = lfsrStep^[2 ^ (j + 2)] l ^^^ lfsrStep^[2 ^ j] l := by
  rw [iterate_two_pow_add_four (j + 4), iterate_two_pow_add_four (j + 1), iterate_two_pow_add_four j, xor_xor_cancel]

/-- So `2^15` steps are one, and 32767 steps are none (R123). -/
theorem isPeriodicPt_lfsrStep (l : Lfsr) : Function.IsPeriodicPt lfsrStep 32767 l := by
  have cancel (a b c : Lfsr) : (c ^^^ a) ^^^ ((a ^^^ b) ^^^ c) = b := by
    rw [BitVec.xor_comm c a, BitVec.xor_comm (a ^^^ b) c, xor_xor_cancel, ← BitVec.xor_assoc, BitVec.xor_self,
      BitVec.zero_xor]
  have round : lfsrStep^[2 ^ 15] l = lfsrStep^[2 ^ 0] l := by
    calc lfsrStep^[2 ^ 15] l
      _ = lfsrStep^[2 ^ 9] l ^^^ lfsrStep^[2 ^ 7] l := iterate_two_pow_add_eight 7 l
      _ = (lfsrStep^[2 ^ 3] l ^^^ lfsrStep^[2 ^ 1] l) ^^^ (lfsrStep^[2 ^ 4] l ^^^ lfsrStep^[2 ^ 3] l) := by
        rw [← iterate_two_pow_add_eight 1, ← iterate_two_pow_add_four 3]
      _ = (lfsrStep^[2 ^ 3] l ^^^ lfsrStep^[2 ^ 1] l) ^^^
          ((lfsrStep^[2 ^ 1] l ^^^ lfsrStep^[2 ^ 0] l) ^^^ lfsrStep^[2 ^ 3] l) := by
        rw [← iterate_two_pow_add_four 0]
      _ = lfsrStep^[2 ^ 0] l := cancel _ _ _
  exact lfsrStep_injective ((Function.iterate_succ_apply' lfsrStep 32767 l).symm.trans round)

/-! ### The three cofactors -/

theorem seed_iterate_nine : lfsrStep^[9] 0x5205#15 = 0x41e9#15 := by decide

/-- 217 = 9 + 16 + 64 + 128. -/
theorem seed_iterate_217 : lfsrStep^[217] 0x5205#15 = 0x04b3#15 := by
  have s16 : lfsrStep^[16] 0x41e9#15 = 0x508e#15 := by decide
  have s64 : lfsrStep^[64] 0x508e#15 = 0x29d8#15 := (iterate_two_pow_add_four 2 _).trans (by decide)
  have s128 : lfsrStep^[128] 0x29d8#15 = 0x04b3#15 := (iterate_two_pow_add_four 3 _).trans (by decide)
  rw [Function.iterate_add_apply lfsrStep 208 9, seed_iterate_nine, Function.iterate_add_apply lfsrStep 192 16, s16,
    Function.iterate_add_apply lfsrStep 128 64, s64, s128]

/-- 1057 = 33 + 1024. -/
theorem seed_iterate_1057 : lfsrStep^[1057] 0x5205#15 = 0x6d11#15 := by
  have s33 : lfsrStep^[33] 0x5205#15 = 0x64d0#15 := by decide
  have s1024 : lfsrStep^[1024] 0x64d0#15 = 0x6d11#15 := (iterate_two_pow_add_eight 2 _).trans (by decide)
  rw [Function.iterate_add_apply lfsrStep 1024 33, s33, s1024]

/-- 4681 = 9 + 64 + 512 + 4096. -/
theorem seed_iterate_4681 : lfsrStep^[4681] 0x5205#15 = 0x3392#15 := by
  have s64 (l : Lfsr) : lfsrStep^[64] l = lfsrStep^[8] l ^^^ lfsrStep^[4] l := iterate_two_pow_add_four 2 l
  have second : lfsrStep^[64] 0x41e9#15 = 0x62df#15 := (s64 _).trans (by decide)
  have s512 : lfsrStep^[512] 0x62df#15 = 0x40d5#15 := (iterate_two_pow_add_eight 1 _).trans (by decide)
  have s4096 : lfsrStep^[4096] 0x40d5#15 = 0x3392#15 := by
    have sum : lfsrStep^[4096] 0x40d5#15 = lfsrStep^[64] 0x40d5#15 ^^^ lfsrStep^[16] 0x40d5#15 :=
      iterate_two_pow_add_eight 4 _
    rw [sum, s64]
    decide
  rw [Function.iterate_add_apply lfsrStep 4672 9, seed_iterate_nine, Function.iterate_add_apply lfsrStep 4608 64,
    second, Function.iterate_add_apply lfsrStep 4096 512, s512, s4096]

theorem prime_dvd_32767 {p : Nat} (hp : p.Prime) (h : p ∣ 32767) : p = 7 ∨ p = 31 ∨ p = 151 := by
  have factors : 32767 = 7 * (31 * 151) := by norm_num
  rw [factors, hp.dvd_mul, hp.dvd_mul, Nat.prime_dvd_prime_iff_eq hp (by norm_num),
    Nat.prime_dvd_prime_iff_eq hp (by norm_num), Nat.prime_dvd_prime_iff_eq hp (by norm_num)] at h
  exact h

/-- A proper divisor of 32767 divides the cofactor of one of its primes. -/
theorem dvd_cofactor {g : Nat} (h : g ∣ 32767) (hne : g ≠ 32767) : g ∣ 4681 ∨ g ∣ 1057 ∨ g ∣ 217 := by
  obtain ⟨q, hq⟩ := h
  have hq1 : q ≠ 1 := by rintro rfl; omega
  obtain ⟨p, hp, r, rfl⟩ := Nat.exists_prime_and_dvd hq1
  have cofactor : 32767 = p * (g * r) := by rw [hq]; ring
  rcases prime_dvd_32767 hp ⟨g * r, cofactor⟩ with rfl | rfl | rfl
  · exact .inl ⟨r, by omega⟩
  · exact .inr (.inl ⟨r, by omega⟩)
  · exact .inr (.inr ⟨r, by omega⟩)

/-- The seed's periods are no divisor of 32767 but itself. -/
theorem seed_not_isPeriodicPt {k : Nat} (h0 : 0 < k) (hk : k < 32767) :
    ¬ Function.IsPeriodicPt lfsrStep k 0x5205#15 := by
  intro period
  have common := period.gcd (isPeriodicPt_lfsrStep 0x5205#15)
  have proper : Nat.gcd k 32767 ≠ 32767 := by
    have := Nat.gcd_le_left 32767 h0
    omega
  rcases dvd_cofactor (Nat.gcd_dvd_right k 32767) proper with hd | hd | hd
  · exact absurd (seed_iterate_4681.symm.trans (common.trans_dvd hd)) (by decide)
  · exact absurd (seed_iterate_1057.symm.trans (common.trans_dvd hd)) (by decide)
  · exact absurd (seed_iterate_217.symm.trans (common.trans_dvd hd)) (by decide)

/-- Settles O16: the period is 32767 and nothing less, and injectivity keeps the orbit off the fixed point 0. -/
theorem lfsrPeriodIs32767 : Obligations.LfsrPeriodIs32767 := by
  refine ⟨isPeriodicPt_lfsrStep 0x5205#15, fun k h0 hk => seed_not_isPeriodicPt h0 hk, fun k hzero => ?_,
    lfsrStep_zero⟩
  have fixed : lfsrStep^[k] 0#15 = 0#15 := Function.iterate_fixed lfsrStep_zero k
  exact absurd (lfsrStep_injective.iterate k (hzero.trans fixed.symm)) (by decide)

end Sys2Proof.Machine
end

section
/-! FREQ and the phase step (00_scope.md R9, 40_oscillator_bank.md R111 to R113): the comparisons with the real
`65.406 × 2^(p/12)`, which the model makes between rational powers, the search for a value near it, and what the bound
on FREQ gives for the increment and the wrap. -/

namespace Sys2Proof.Machine

open Sys2Proof.Claims

/-! ### The equal-tempered frequency -/

/-- `65.406 × 2^(p/12)` as a real number (R9). -/
noncomputable def tempered (p : F) : ℝ := 65.406 * (2 : ℝ) ^ ((p : ℝ) / 12)

theorem tempered_pos (p : F) : 0 < tempered p := by
  unfold tempered
  positivity

theorem tempered_le_tempered {p q : F} (h : p ≤ q) : tempered p ≤ tempered q := by
  have exponent : (p : ℝ) / 12 ≤ (q : ℝ) / 12 := by
    have : (p : ℝ) ≤ (q : ℝ) := by exact_mod_cast h
    linarith
  unfold tempered
  have := Real.rpow_le_rpow_of_exponent_le (one_le_two) exponent
  linarith

/-- At a whole number of octaves the exponent is whole. -/
theorem tempered_octave (k : Int) : tempered ((12 * k : Int) : F) = 65.406 * (2 : ℝ) ^ k := by
  have exponent : ((((12 * k : Int) : F)) : ℝ) / 12 = (k : ℝ) := by
    push_cast
    ring
  rw [tempered, exponent, Real.rpow_intCast]

/-- Raised to the power 12 times the pitch's denominator the real frequency is rational; the power of two goes to
the side where its exponent is not negative. -/
theorem tempered_pow (p : F) :
    tempered p ^ (12 * p.den) * 2 ^ (-p.num).toNat = (32703 / 500) ^ (12 * p.den) * 2 ^ p.num.toNat := by
  have exponent : (p : ℝ) / 12 * ((12 * p.den : Nat) : ℝ) = ((p.num : Int) : ℝ) := by
    have cleared : (p : ℝ) * (p.den : ℝ) = (p.num : ℝ) := by exact_mod_cast Rat.mul_den_eq_num p
    push_cast
    linarith
  have power : ((2 : ℝ) ^ ((p : ℝ) / 12)) ^ (12 * p.den) = (2 : ℝ) ^ p.num := by
    rw [← Real.rpow_natCast, ← Real.rpow_mul zero_le_two, exponent, Real.rpow_intCast]
  have split : (2 : ℝ) ^ p.num * 2 ^ (-p.num).toNat = 2 ^ p.num.toNat := by
    rw [← zpow_natCast, ← zpow_natCast, ← zpow_add₀ two_ne_zero]
    congr 1
    omega
  rw [tempered, mul_pow, power, mul_assoc, split]
  norm_num

theorem exponent_ne_zero (p : F) : 12 * p.den ≠ 0 := by
  have := p.den_pos
  omega

/-- The model's comparison from below is that with the real frequency. -/
theorem atMostPitch_iff (p x : F) : atMostPitch p x = true ↔ (x : ℝ) ≤ tempered p := by
  rw [atMostPitch, Bool.or_eq_true, decide_eq_true_iff, decide_eq_true_iff]
  rcases le_or_gt x 0 with hx | hx
  · have hx' : (x : ℝ) ≤ 0 := by exact_mod_cast hx
    exact iff_of_true (.inl hx) (hx'.trans (tempered_pos p).le)
  · have hx' : (0 : ℝ) ≤ (x : ℝ) := by exact_mod_cast hx.le
    have two : (0 : ℝ) < 2 ^ (-p.num).toNat := by positivity
    rw [or_iff_right (not_le.mpr hx), ← pow_le_pow_iff_left₀ hx' (tempered_pos p).le (exponent_ne_zero p),
      ← mul_le_mul_iff_left₀ two, tempered_pow, ← Rat.cast_le (K := ℝ)]
    push_cast
    rfl

/-- The model's comparison from above is that with the real frequency. -/
theorem atLeastPitch_iff (p x : F) : atLeastPitch p x = true ↔ tempered p ≤ (x : ℝ) := by
  rw [atLeastPitch, Bool.and_eq_true, decide_eq_true_iff, decide_eq_true_iff]
  rcases lt_or_ge x 0 with hx | hx
  · have hx' : (x : ℝ) < 0 := by exact_mod_cast hx
    exact iff_of_false (fun h => not_le.mpr hx h.1) (not_le.mpr (hx'.trans (tempered_pos p)))
  · have hx' : (0 : ℝ) ≤ (x : ℝ) := by exact_mod_cast hx
    have two : (0 : ℝ) < 2 ^ (-p.num).toNat := by positivity
    rw [and_iff_right hx, ← pow_le_pow_iff_left₀ (tempered_pos p).le hx' (exponent_ne_zero p),
      ← mul_le_mul_iff_left₀ two, tempered_pow, ← Rat.cast_le (K := ℝ)]
    push_cast
    rfl

/-! ### The search -/

theorem gridDen_inv_le {tol : F} (h : 0 < tol) : 1 / (gridDen tol : F) ≤ tol := by
  have hd : (0 : F) < (gridDen tol : F) := by exact_mod_cast gridDen_pos tol
  have hceil : 1 / tol ≤ (gridDen tol : F) := by
    have up : 1 / tol ≤ ((1 / tol).ceil : F) := Rat.le_ceil
    have whole : (1 / tol).ceil ≤ ((gridDen tol : Nat) : Int) :=
      (Int.self_le_toNat _).trans (by exact_mod_cast le_max_right 1 (1 / tol).ceil.toNat)
    have whole' : ((1 / tol).ceil : F) ≤ (gridDen tol : F) := by exact_mod_cast whole
    linarith
  rw [div_le_iff₀ hd]
  rw [div_le_iff₀ h] at hceil
  linarith

/-- The bits the search is given hold the number it looks for. -/
theorem tempered_mul_lt (d : Nat) (hd : 0 < d) (p : F) :
    tempered p * (d : ℝ) < ((2 ^ (8 + d.log2 + (p / 12).ceil.toNat) : Nat) : ℝ) := by
  have exponent : (p : ℝ) / 12 ≤ (((p / 12).ceil.toNat : Nat) : ℝ) := by
    have up : p / 12 ≤ ((p / 12).ceil : F) := Rat.le_ceil
    have whole : ((p / 12).ceil : F) ≤ (((p / 12).ceil.toNat : Nat) : F) := by
      exact_mod_cast Int.self_le_toNat _
    exact_mod_cast up.trans whole
  have octaves : (2 : ℝ) ^ ((p : ℝ) / 12) ≤ 2 ^ (p / 12).ceil.toNat := by
    rw [← Real.rpow_natCast]
    exact Real.rpow_le_rpow_of_exponent_le one_le_two exponent
  have size : (d : ℝ) < 2 ^ (d.log2 + 1) := by
    exact_mod_cast Nat.lt_log2_self
  have pos : (0 : ℝ) < (2 : ℝ) ^ ((p : ℝ) / 12) := by positivity
  have dpos : (0 : ℝ) < (d : ℝ) := by exact_mod_cast hd
  have tone : 65.406 * (2 : ℝ) ^ ((p : ℝ) / 12) < 2 ^ 7 * 2 ^ (p / 12).ceil.toNat := by linarith
  unfold tempered
  calc 65.406 * (2 : ℝ) ^ ((p : ℝ) / 12) * (d : ℝ)
    _ < 2 ^ 7 * 2 ^ (p / 12).ceil.toNat * 2 ^ (d.log2 + 1) := mul_lt_mul'' tone size (by positivity) dpos.le
    _ = ((2 ^ (8 + d.log2 + (p / 12).ceil.toNat) : Nat) : ℝ) := by
      push_cast
      ring

/-- What the search accepts: the numbers below the real frequency in steps of the grid. -/
theorem atMostPitch_grid_iff (p : F) {d : Nat} (hd : 0 < d) (m : Nat) :
    atMostPitch p ((m : F) / (d : F)) = true ↔ (m : ℝ) ≤ tempered p * (d : ℝ) := by
  have hd' : (0 : ℝ) < (d : ℝ) := by exact_mod_cast hd
  rw [atMostPitch_iff, ← div_le_iff₀ hd']
  push_cast
  rfl

/-- The value found lies above the real frequency, and by no more than one step of the grid. -/
theorem freqNear_mem (tol p : F) :
    tempered p < (freqNear tol p : ℝ) ∧ (freqNear tol p : ℝ) ≤ tempered p + ((1 / (gridDen tol : F) : F) : ℝ) := by
  have hd := gridDen_pos tol
  have room := tempered_mul_lt (gridDen tol) hd p
  unfold freqNear
  generalize gridDen tol = d at hd room
  generalize 8 + d.log2 + (p / 12).ceil.toNat = bits at room
  have accepts := atMostPitch_grid_iff p hd
  have hd' : (0 : ℝ) < (d : ℝ) := by exact_mod_cast hd
  have initial (a b : Nat) (hab : a ≤ b) (hb : atMostPitch p ((b : F) / (d : F)) = true) :
      atMostPitch p ((a : F) / (d : F)) = true := by
    have hab' : (a : ℝ) ≤ (b : ℝ) := by exact_mod_cast hab
    exact (accepts a).mpr (hab'.trans ((accepts b).mp hb))
  have start : atMostPitch p (((0 : Nat) : F) / (d : F)) = true := by
    rw [accepts, Nat.cast_zero]
    exact (mul_pos (tempered_pos p) hd').le
  obtain ⟨found, -, -, last⟩ :=
    gridSearch_spec (ok := fun m => atMostPitch p ((m : F) / (d : F))) initial bits 0 start
  generalize gridSearch (fun m => atMostPitch p ((m : F) / (d : F))) bits 0 = m at found last
  have low : (m : ℝ) ≤ tempered p * (d : ℝ) := (accepts m).mp found
  have high : tempered p * (d : ℝ) < ((m + 1 : Nat) : ℝ) := by
    by_contra beyond
    rw [not_lt] at beyond
    have inside : m + 1 < 2 ^ bits := by exact_mod_cast beyond.trans_lt room
    have := last (m + 1) (by omega) ((accepts (m + 1)).mpr beyond)
    omega
  push_cast at high ⊢
  rw [lt_div_iff₀ hd', div_le_iff₀ hd', add_mul, one_div, inv_mul_cancel₀ hd'.ne']
  exact ⟨high, by linarith⟩

/-! ### FREQ -/

/-- The exact octave as a power of two (R9). -/
theorem octaveFreq_eq (k : Int) : octaveFreq k = 65406 / 1000 * (2 : F) ^ k := by
  have split : (2 : F) ^ k = (2 : F) ^ k.toNat / (2 : F) ^ (-k).toNat := by
    rw [← zpow_natCast, ← zpow_natCast, ← zpow_sub₀ two_ne_zero, Int.toNat_sub_toNat_neg]
  rw [octaveFreq, split]
  push_cast
  ring

theorem octaveFreq_cast (k : Int) : ((octaveFreq k : F) : ℝ) = tempered ((12 * k : Int) : F) := by
  rw [tempered_octave, octaveFreq_eq]
  push_cast
  norm_num

/-- FREQ is within the pitch's tolerance of the real frequency, on every carrier (R9; log 2). -/
theorem freq_mem {n : Numerics} {p : F} (h : 0 < pitchTolerance n.freqTolerance p) :
    |(freq n p : ℝ) - tempered p| ≤ (pitchTolerance n.freqTolerance p : ℝ) := by
  generalize htol : pitchTolerance n.freqTolerance p = tol at h
  have h' : (0 : ℝ) < (tol : ℝ) := by exact_mod_cast h
  rw [abs_le]
  obtain ⟨-, whole, exact_octave⟩ | near | found := freq_cases n p
  · have octave : ((12 * (p / 12).num : Int) : F) = p := by
      have := (Rat.den_eq_one_iff _).mp whole
      push_cast
      linarith
    rw [exact_octave, octaveFreq_cast, octave, sub_self]
    exact ⟨by linarith, h'.le⟩
  · rw [htol, freqOk, Bool.and_eq_true, Bool.and_eq_true, atMostPitch_iff, atLeastPitch_iff] at near
    obtain ⟨⟨-, low⟩, high⟩ := near
    push_cast at low high
    constructor <;> linarith
  · obtain ⟨low, high⟩ := freqNear_mem tol p
    have step : ((1 / (gridDen tol : F) : F) : ℝ) ≤ (tol : ℝ) := by exact_mod_cast gridDen_inv_le h
    rw [found, htol]
    constructor <;> linarith

theorem pitchTolerance_pos {tol : F} (h : 0 < tol) (p : F) :
    0 < pitchTolerance tol p ∧ pitchTolerance tol p ≤ tol := by
  unfold pitchTolerance
  split_ifs with narrow
  · have wide : ¬ tol ≤ 1 / 1000 := fun le => narrow.2 ⟨h, le⟩
    constructor
    · norm_num
    · linarith
  · exact ⟨h, le_refl tol⟩

/-- At pitches 0 and 12 the tolerance is that of R9(b), whatever the configuration states. -/
theorem pitchTolerance_named (tol : F) {p : F} (h : p = 0 ∨ p = 12) :
    0 < pitchTolerance tol p ∧ pitchTolerance tol p ≤ 1 / 1000 := by
  unfold pitchTolerance
  split_ifs with wide
  · norm_num
  · exact not_not.mp fun narrow => wide ⟨h, narrow⟩

/-- The top of the reachable pitches, with room below the domain of NATIVE_RATE (R7, R9(c); log 7). -/
theorem tempered_top : tempered (253 / 4) ≤ 252529 / 100 := by
  have compared : atLeastPitch (253 / 4) (252529 / 100) = true := by
    have up : (253 : Int).toNat = 253 := rfl
    have down : (-253 : Int).toNat = 0 := rfl
    norm_num [atLeastPitch, up, down]
  have := (atLeastPitch_iff _ _).mp compared
  push_cast at this
  exact this

/-- A rational bound between FREQ and a rational real frequency. -/
theorem freq_near_rat {n : Numerics} {p r : F} (named : p = 0 ∨ p = 12) (hr : tempered p = (r : ℝ)) :
    |freq n p - r| ≤ 1 / 1000 := by
  obtain ⟨pos, le⟩ := pitchTolerance_named n.freqTolerance named
  have near := freq_mem pos
  rw [hr] at near
  have near' : |freq n p - r| ≤ pitchTolerance n.freqTolerance p := by exact_mod_cast near
  exact near'.trans le

/-- Settles O17: positivity, the tolerance at every pitch, R9(b)'s own at the two named pitches, and the octaves. -/
theorem frequencyFollowsEqualTemperament : Obligations.FrequencyFollowsEqualTemperament := by
  intro n
  refine ⟨freq_pos n, fun htol p => ?tolerance, freq_near_rat (.inl rfl) ?zero, freq_near_rat (.inr rfl) ?twelve,
    fun exact_carrier k => ?octaves⟩
  case tolerance =>
    obtain ⟨pos, le⟩ := pitchTolerance_pos htol p
    have le' : (pitchTolerance n.freqTolerance p : ℝ) ≤ (n.freqTolerance : ℝ) := by exact_mod_cast le
    exact (freq_mem pos).trans le'
  case zero =>
    have := tempered_octave 0
    norm_num at this ⊢
    exact this
  case twelve =>
    have := tempered_octave 1
    norm_num at this ⊢
    exact this
  case octaves =>
    have octave : ((12 * k : Int) : F) / 12 = (k : F) := by
      push_cast
      ring
    rw [freq, octave, if_pos ⟨exact_carrier, Rat.den_intCast k⟩, Rat.num_intCast, octaveFreq_eq]

/-! ### The increment and the wrap -/

/-- At the pitch a well-formed channel's effect yields, FREQ is below NATIVE_RATE (R9(c)). -/
theorem freq_resolve_lt_nativeRate {cfg : Config} (hc : cfg.WF) {ch : Channel}
    (h : ChannelStateWF cfg.numerics ch.cs) :
    freq cfg.numerics (resolve cfg ch).pitch < (cfg.nativeRate : F) := by
  obtain ⟨htol, hrate, -⟩ := hc
  obtain ⟨pos, le⟩ := pitchTolerance_pos htol (resolve cfg ch).pitch
  have near := (abs_le.mp (freq_mem pos)).2
  have top := (tempered_le_tempered (resolve_pitch_mem_swing h).2).trans tempered_top
  have le' : (pitchTolerance cfg.numerics.freqTolerance (resolve cfg ch).pitch : ℝ) ≤
      (cfg.numerics.freqTolerance : ℝ) := by exact_mod_cast le
  have rate : ((25253 / 10 : F) : ℝ) + (cfg.numerics.freqTolerance : ℝ) ≤ (cfg.nativeRate : ℝ) := by
    exact_mod_cast hrate
  push_cast at rate
  have below_rate : ((freq cfg.numerics (resolve cfg ch).pitch : F) : ℝ) < ((cfg.nativeRate : Nat) : ℝ) := by
    linarith
  exact_mod_cast below_rate

/-- Settles O18: FREQ below NATIVE_RATE puts the increment below 1, and so the sum below 2 and one wrap in reach. -/
theorem phaseIncrementIsBelowOne : Obligations.PhaseIncrementIsBelowOne := by
  intro cfg ch hc h
  dsimp only
  have ⟨_, ⟨phi0, phi1⟩, _⟩ := h
  have inc1 := phaseInc_lt_one (freq_resolve_lt_nativeRate hc h)
  have sum0 := phaseSum_nonneg hc (resolve cfg ch).pitch phi0
  have sum2 := phaseSum_lt_two phi1 inc1
  have whole : ⌊phaseSum cfg (resolve cfg ch).pitch ch.cs⌋ = 0 ∨ ⌊phaseSum cfg (resolve cfg ch).pitch ch.cs⌋ = 1 := by
    have low := Int.floor_nonneg.mpr sum0
    have high : ⌊phaseSum cfg (resolve cfg ch).pitch ch.cs⌋ < 2 := Int.floor_lt.mpr sum2
    omega
  obtain ⟨next0, next1⟩ := phaseAdvance_phi_mem hc (resolve cfg ch).pitch phi0
  rw [phaseTotal_eq_phaseSum, increment_eq_phaseInc, fractional_eq_frac]
  exact ⟨freq_resolve_lt_nativeRate hc h, rfl, phaseInc_pos hc _, inc1, rfl, sum0, sum2, whole, rfl, next0, next1,
    vibInc_nonneg cfg, vibInc_lt_twoPi hc⟩

end Sys2Proof.Machine
end

section
/-! Words of the spec against the decoder (95_test_vectors.md §2.1), and operands outside their ranges against the
decoder and the operation alike (30_encoding.md R92; log 11, log 19). -/

namespace Sys2Proof.Machine

/-! ### Sample words -/

theorem decode_effectBits (m : WaveMap) (b0 b1 : Byte) :
    decode m (.effectBits b0 b1) = .ok (effectInstr (effectOfCode (rowEff b0 b1))) := rfl

theorem decode_waveBits (m : WaveMap) (b1 : Byte) :
    decode m (.waveBits b1) = .ok (waveInstr (waveOfCode m (rowWave b1))) := rfl

/-- Settles O5: each word's bits pick out its own row of the tables. -/
theorem sampleWordsDecode : Obligations.SampleWordsDecode := by
  refine ⟨rfl, rfl, fun m => ?tables, ?defaults⟩
  case tables =>
    simp only [decode_effectBits, decode_waveBits]
    exact ⟨rfl, rfl, rfl, rfl, rfl, rfl, rfl, rfl, rfl, rfl, rfl, rfl, rfl, rfl, rfl, rfl⟩
  case defaults =>
    exact ⟨rfl, rfl, rfl, rfl, rfl, rfl, rfl, rfl, rfl, rfl, rfl, rfl, rfl, rfl⟩

/-! ### Operands outside their ranges -/

theorem exec_trigger_of_not_domain {n : Int} {r0 : Option Int} (h : ¬ TriggerDomain n r0) (chan : Option Int)
    (s : State) :
    exec (.trigger n chan r0) s = .refused (.operandOutsideDomain "TRIGGER") ∧
      decodeCall ⟨1, [some n, chan, r0], none⟩ = .error (.operandDomain "TRIGGER") :=
  ⟨if_neg h, if_neg h⟩

theorem exec_musicStart_of_not_domain {p mask : Int} (h : ¬ MusicStartDomain p mask) (s : State) :
    exec (.musicStart p mask) s = .refused (.operandOutsideDomain "MUSIC_START") ∧
      decodeCall ⟨2, [some p, some mask], none⟩ = .error (.operandDomain "MUSIC_START") :=
  ⟨if_neg h, if_neg h⟩

theorem exec_generate_of_not_domain {count : Int} (h : ¬ GenerateDomain count) (s : State) :
    exec (.generate count) s = .refused (.operandOutsideDomain "GENERATE") ∧
      decodeCall ⟨5, [some count], none⟩ = .error (.operandDomain "GENERATE") :=
  ⟨if_neg h, if_neg h⟩

/-- Settles O6: an operand past either bound is outside the domain that both the decoder and the operation test. -/
theorem operandsOutsideTheirRangesAreRefused : Obligations.OperandsOutsideTheirRangesAreRefused := by
  intro s
  refine ⟨fun n chan r0 outside => exec_trigger_of_not_domain ?_ chan s,
    fun p mask outside => exec_musicStart_of_not_domain ?_ s,
    fun count negative => exec_generate_of_not_domain (Int.not_le.mpr negative) s⟩
  · rintro ⟨⟨n0, n63⟩, row0, row31⟩
    omega
  · rintro ⟨⟨p0, p63⟩, mask0, mask15⟩
    omega

end Sys2Proof.Machine
end
